-- ==== Sys2Proof/Word.lean ====
section
/-! DEFINITION. The widths of the ocho CHIP-8 core's values (00_scope.md R7, R9). Every value is unsigned. -/

namespace Sys2Proof

/-- One byte: a general register, a timer, a memory cell (R21, R28, R30). -/
abbrev Byte := BitVec 8

/-- Sixteen bits: an opcode, the program counter, the index register, a stack entry (R23, R24, R26, R71). -/
abbrev Word := BitVec 16

/-- A 12-bit address field nnn (R73). -/
abbrev Addr12 := BitVec 12

/-- The index of a general register, V0 to VF (R21): always in range, from a 4-bit field. -/
abbrev Reg := Fin 16

/-- VF, the register that several instructions also write as a flag (R11, R22). -/
abbrev Reg.vf : Reg := 15

/-- The index of a key, 0 to 15 (R35). -/
abbrev Key := Fin 16

end Sys2Proof
end

