-- ==== Sys2Proof/Config.lean ====
section
/-! DEFINITION. What a launch fixes (the quirks and the parameter SHIFT_VF) and the free values the spec leaves
open (the random byte of RND, the key an armed LDK keeps). -/

namespace Sys2Proof

/-- The quirk configuration `Q` (10_state.md R39): five independent booleans, given at `load` and fixed for the
life of the core. The spec gives no default. -/
structure Quirks where
  /-- on: OR, AND and XOR set VF to 0 afterward (R174 to R176). -/
  vfReset : Bool
  /-- on: SHR and SHL first copy V[y] to V[x] (R180, R181). -/
  shifting : Bool
  /-- on: JMPZ adds V[nnn[11:8]] in place of V0 (R147). -/
  jumping : Bool
  /-- on: DRAW wraps at the display's edges; off: it clips (R122, R123). -/
  wrap : Bool
  /-- on: SREG and LREG add x + 1 to I (R207). -/
  memory : Bool
  deriving DecidableEq, Repr

/-- The parameter SHIFT_VF: what VF holds after SHR or SHL with x = 15 (43_alu.md R180, R181; decision D17, open). -/
inductive ShiftVF where
  /-- VF holds the shifted-out bit. -/
  | flagLast
  /-- VF holds the shifted value. -/
  | resultLast
  /-- The source's sentence run write by write: the flag goes to VF and is then itself shifted. -/
  | inPlace
  deriving DecidableEq, Repr

/-- FREE VALUE (log 3): the k-th draw of `RandomByte()` (43_alu.md R182, decision D20). No body: nothing
constrains it, so a claim about RND holds for every draw. -/
opaque Config.freeByte : Nat → Byte

/-- FREE VALUE (log 4): the k-th capture draw. When a second key is released while LDK is armed, true keeps the key
already held and false takes the new one (45_timers_keypad.md R227, decision D19). -/
opaque Config.freeBit : Nat → Bool

end Sys2Proof
end

