-- ==== Sys2Proof/Machine/State.lean ====
section
/-! DEFINITION. The core's state (10_state.md R20), its fault kinds (60_exceptions.md R240), the reasons a step can
stop, and the state right after reset (R42, R272). -/

namespace Sys2Proof.Machine

/-- Memory: (address, byte) pairs for the addresses that do not read as they do right after a load of nothing
(10_state.md R30). The canonical form and the operations are in Machine/Memory.lean. -/
abbrev Memory := List Host.Cell

/-- The kinds of fatal condition (60_exceptions.md R240). -/
inductive FaultKind where
  /-- every step: pc + 1 > 0xFFF (R102). -/
  | fetchOutOfBounds
  /-- CALL with SP = 16 (R142). -/
  | stackOverflow
  /-- RET with SP = 0 (R140). -/
  | stackUnderflow
  /-- DRAW, BCD, SREG, LREG with I + len > 4096 (R200). -/
  | memoryOutOfBounds
  /-- SKP, SKNP with V[x] > 15 (R228). -/
  | invalidKey
  /-- FONT with V[x] > 15 (R203). -/
  | invalidFontDigit
  /-- ADDI with I + V[x] > 0xFFFF (R202). -/
  | indexOverflow
  /-- BCD, SREG with I < 0x050 (R56, R200). -/
  | fontAreaWrite
  /-- the host's `keyPressed` or `keyReleased` with an index > 15 (R252, R253). -/
  | hostKeyIndex
  deriving DecidableEq, Repr

/-- The core's state: the parts of R20, and nothing else. -/
structure CoreState where
  /-- MEM (R30). -/
  mem : Memory
  /-- V[0] to V[15] (R21). -/
  v : Vector Byte 16
  /-- I, the index register (R23). -/
  i : Word
  /-- pc, the program counter (R24). -/
  pc : Word
  /-- STACK[0] to STACK[15] (R26). -/
  stack : Vector Word 16
  /-- SP, the number of stack entries in use, 0 to 16 (R26). -/
  sp : Fin 17
  /-- DT, the delay timer (R28). -/
  dt : Byte
  /-- ST, the sound timer (R29). -/
  st : Byte
  /-- FB[c][r], column c and row r of the framebuffer (R34). -/
  fb : Vector (Vector Bool 32) 64
  /-- DIRTY, the framebuffer's dirty flag (R37). -/
  dirty : Bool
  /-- KEY[0] to KEY[15], true when pressed (R35). -/
  key : Vector Bool 16
  /-- WAITING: LDK is armed (R36). -/
  waiting : Bool
  /-- RELEASED: the key released while LDK was armed (R36). -/
  released : Option Key
  /-- HALT: none while the core runs, else the fault kind (R38). -/
  halt : Option FaultKind
  deriving DecidableEq, Repr

/-- The parameters of the step relation, which are not state (R43): the quirks, SHIFT_VF, and the answers of the random
oracle. The font and the ROM, R43's other two, are arguments of `load` and are read by no step. -/
structure StepParams where
  /-- Q, the quirks, fixed at load (R39, R43; log 1). -/
  quirks : Quirks
  /-- SHIFT_VF, fixed at load (R180, R181; log 2). -/
  shiftVF : ShiftVF
  /-- The oracle of RandomByte(): the next of its answers, by number (log 3). -/
  draws : Nat
  deriving DecidableEq, Repr

/-- What the interface's `step` takes as its one argument: a state of the core, and beside it the parameters of the step
relation (log 1). The relation itself, which takes the two apart, is `Steps` in Machine/Step.lean. -/
structure State extends CoreState, StepParams
  deriving DecidableEq, Repr

/-- A core state together with parameters of the step relation. -/
def CoreState.withParams (c : CoreState) (p : StepParams) : State := { toCoreState := c, toStepParams := p }

/-- Why the machine stops. -/
inductive Fault where
  /-- Raised by the step, and by nothing else, when the core is already halted: a halted core executes nothing more
  and has no successor step (R101, R240). Safe: the core goes on to nothing. -/
  | halted (kind : FaultKind)
  deriving DecidableEq, Repr

/-- Why an instruction has no meaning. -/
inductive Refusal where
  /-- Raised by an arm of `exec` whose instruction is not modelled. No arm raises it. Safe. -/
  | notModelled (mnemonic : String)
  deriving DecidableEq, Repr

/-- The outcome of a step or of an instruction. -/
abbrev Outcome := Host.Outcome State Fault Refusal

/-- The all-clear screen (R42). -/
def blankScreen : Vector (Vector Bool 32) 64 := Vector.replicate 64 (Vector.replicate 32 false)

/-- The machine right after a load of the empty ROM (R42, R272). The pc is the entry point 0x200; the zeros are
R42's (logs 6 to 9); the quirks and SHIFT_VF, for which the spec gives no default, are DESIGN CHOICES (logs 1, 2),
and so is the draw counter's start (log 3). -/
def State.reset : State where
  mem := []
  v := Vector.replicate 16 0x00
  i := 0x0000
  pc := 0x200
  stack := Vector.replicate 16 0x0000
  sp := 0
  dt := 0x00
  st := 0x00
  fb := blankScreen
  dirty := false
  key := Vector.replicate 16 false
  waiting := false
  released := none
  halt := none
  quirks := { vfReset := false, shifting := false, jumping := false, wrap := false, memory := false }
  shiftVF := .flagLast
  draws := 0

end Sys2Proof.Machine
end

