-- ==== Sys2Proof/Machine/Flags.lean ====
section
/-! DEFINITION. The flag values written to VF (10_state.md R22). The core has no other flag; each is computed from
the operands read before anything is written (43_alu.md R183). -/

namespace Sys2Proof.Machine

/-- A condition as the byte VF takes: 0x01 or 0x00. -/
def flagByte (b : Bool) : Byte := if b then 0x01 else 0x00

/-- ADD: 1 if the exact unsigned sum exceeds 0xFF, else 0 (R177). -/
def carryFlag (p q : Byte) : Byte := flagByte (decide (p.toNat + q.toNat > 0xFF))

/-- SUB and SUBR, for p - q: 1 if there is no borrow, p >= q, else 0 (R178, R179). -/
def noBorrowFlag (p q : Byte) : Byte := flagByte (decide (p.toNat ≥ q.toNat))

/-- SHR: bit 0 of the pre-shift value (R180). -/
def shrFlag (p : Byte) : Byte := p &&& 0x01

/-- SHL: bit 7 of the pre-shift value (R181). -/
def shlFlag (p : Byte) : Byte := (p >>> 7) &&& 0x01

/-- DRAW: 1 on collision, else 0 (41_display.md R121, R129). -/
def collisionFlag (collision : Bool) : Byte := flagByte collision

/-- What VF holds after SHR with x = 15, by the parameter SHIFT_VF: `f` is the flag, `res` the result (R180). -/
def shrVF (p : ShiftVF) (f res : Byte) : Byte :=
  match p with
  | .flagLast => f
  | .resultLast => res
  | .inPlace => f >>> 1

/-- What VF holds after SHL with x = 15, by the parameter SHIFT_VF (R181). -/
def shlVF (p : ShiftVF) (f res : Byte) : Byte :=
  match p with
  | .flagLast => f
  | .resultLast => res
  | .inPlace => f <<< 1

end Sys2Proof.Machine
end

