-- ==== Sys2Proof/Syntax.lean ====
section
/-! DEFINITION. The instructions: one constructor per row of spec/opcode_table.json, in its order (30_encoding.md
R76), and the variant Unrecognized, which is an instruction and no error (R89). -/

namespace Sys2Proof

/-- The 34 named instructions and Unrecognized (R70, R76). Operands are the decoded fields of R73: registers x and
y, the 8-bit immediate nn, the 12-bit address nnn, the row count n. -/
inductive Instr where
  | cls
  | ret
  | jmp (nnn : Addr12)
  | call (nnn : Addr12)
  | skeb (x : Reg) (nn : Byte)
  | skneb (x : Reg) (nn : Byte)
  | ske (x y : Reg)
  | skne (x y : Reg)
  | ldb (x : Reg) (nn : Byte)
  | addb (x : Reg) (nn : Byte)
  | ld (x y : Reg)
  | or (x y : Reg)
  | and (x y : Reg)
  | xor (x y : Reg)
  | add (x y : Reg)
  | sub (x y : Reg)
  | subr (x y : Reg)
  | shr (x y : Reg)
  | shl (x y : Reg)
  | ldi (nnn : Addr12)
  | jmpz (nnn : Addr12)
  | rnd (x : Reg) (nn : Byte)
  | draw (x y : Reg) (n : Fin 16)
  | skp (x : Reg)
  | sknp (x : Reg)
  | ldft (x : Reg)
  | ldk (x : Reg)
  | lddt (x : Reg)
  | ldst (x : Reg)
  | addi (x : Reg)
  | font (x : Reg)
  | bcd (x : Reg)
  | sreg (x : Reg)
  | lreg (x : Reg)
  /-- Every word that no named instruction matches, with the raw opcode (R87, R89). -/
  | unrecognized (raw : Word)
  deriving DecidableEq, Repr

/-- The mnemonic of an instruction, as the source's table spells it (R76, R90). -/
def Instr.mnemonic : Instr → String
  | .cls => "CLS"
  | .ret => "RET"
  | .jmp _ => "JMP"
  | .call _ => "CALL"
  | .skeb _ _ => "SKEB"
  | .skneb _ _ => "SKNEB"
  | .ske _ _ => "SKE"
  | .skne _ _ => "SKNE"
  | .ldb _ _ => "LDB"
  | .addb _ _ => "ADDB"
  | .ld _ _ => "LD"
  | .or _ _ => "OR"
  | .and _ _ => "AND"
  | .xor _ _ => "XOR"
  | .add _ _ => "ADD"
  | .sub _ _ => "SUB"
  | .subr _ _ => "SUBR"
  | .shr _ _ => "SHR"
  | .shl _ _ => "SHL"
  | .ldi _ => "LDI"
  | .jmpz _ => "JMPZ"
  | .rnd _ _ => "RND"
  | .draw _ _ _ => "DRAW"
  | .skp _ => "SKP"
  | .sknp _ => "SKNP"
  | .ldft _ => "LDFT"
  | .ldk _ => "LDK"
  | .lddt _ => "LDDT"
  | .ldst _ => "LDST"
  | .addi _ => "ADDI"
  | .font _ => "FONT"
  | .bcd _ => "BCD"
  | .sreg _ => "SREG"
  | .lreg _ => "LREG"
  | .unrecognized _ => "Unrecognized"

end Sys2Proof
end

