-- ==== Sys2Proof/WellFormed.lean ====
section
/-! DEFINITION. Well-formed instructions. The operands' widths are in their types (R74: fields are always in
range); the one thing left to check is that Unrecognized carries a word of the unrecognized space. -/

namespace Sys2Proof

/-- The unrecognized space, group by group (30_encoding.md R84): the word's group and its selector. -/
def unrecognizedWord (w : Word) : Bool :=
  let low := w.extractLsb' 0 8
  let nibble := w.extractLsb' 0 4
  match w.extractLsb' 12 4 with
  | 0x0#4 => !([0xE0#8, 0xEE#8].contains low)
  | 0x5#4 => nibble != 0x0#4
  | 0x8#4 => [0x8#4, 0x9#4, 0xA#4, 0xB#4, 0xC#4, 0xD#4, 0xF#4].contains nibble
  | 0x9#4 => nibble != 0x0#4
  | 0xE#4 => !([0x9E#8, 0xA1#8].contains low)
  | 0xF#4 => !([0x07#8, 0x0A#8, 0x15#8, 0x18#8, 0x1E#8, 0x29#8, 0x33#8, 0x55#8, 0x65#8].contains low)
  | _ => false

/-- An instruction is well-formed when it is one of the 34 named ones, with any operands, or Unrecognized with a
word of the unrecognized space (R84, R89). -/
def Instr.wellFormed : Instr → Bool
  | .cls => true
  | .ret => true
  | .jmp _ => true
  | .call _ => true
  | .skeb _ _ => true
  | .skneb _ _ => true
  | .ske _ _ => true
  | .skne _ _ => true
  | .ldb _ _ => true
  | .addb _ _ => true
  | .ld _ _ => true
  | .or _ _ => true
  | .and _ _ => true
  | .xor _ _ => true
  | .add _ _ => true
  | .sub _ _ => true
  | .subr _ _ => true
  | .shr _ _ => true
  | .shl _ _ => true
  | .ldi _ => true
  | .jmpz _ => true
  | .rnd _ _ => true
  | .draw _ _ _ => true
  | .skp _ => true
  | .sknp _ => true
  | .ldft _ => true
  | .ldk _ => true
  | .lddt _ => true
  | .ldst _ => true
  | .addi _ => true
  | .font _ => true
  | .bcd _ => true
  | .sreg _ => true
  | .lreg _ => true
  | .unrecognized raw => unrecognizedWord raw

end Sys2Proof
end

