-- ==== Sys2Proof/Decode.lean ====
section
/-! DEFINITION. The decoder, total on every 16-bit word (30_encoding.md R70 to R89), the bytes it reads (R52, R71),
the encoder written from the same tables, and the opcode map of R76 as rows. -/

namespace Sys2Proof

/-! ## The fields of an opcode (R73) -/

/-- w[15:12], the top-level group. -/
def groupField (w : Word) : BitVec 4 := w.extractLsb' 12 4

/-- w[11:8], the first register index. -/
def xField (w : Word) : Reg := (w.extractLsb' 8 4).toFin

/-- w[7:4], the second register index. -/
def yField (w : Word) : Reg := (w.extractLsb' 4 4).toFin

/-- w[3:0], the 4-bit immediate: the height of DRAW. -/
def nField (w : Word) : Fin 16 := (w.extractLsb' 0 4).toFin

/-- w[3:0] as the low-nibble selector of groups 5, 8 and 9. -/
def nibbleField (w : Word) : BitVec 4 := w.extractLsb' 0 4

/-- w[7:0], the 8-bit immediate; also the low-byte selector of groups 0, E and F. -/
def nnField (w : Word) : Byte := w.extractLsb' 0 8

/-- w[11:0], the 12-bit address. -/
def nnnField (w : Word) : Addr12 := w.extractLsb' 0 12

/-! ## The two-level decoder (R75) -/

/-- Group 0 selects on the full low byte; bits 11..8 are not compared (R77). -/
def decodeGroup0 (w : Word) : Instr :=
  match nnField w with
  | 0xE0#8 => .cls
  | 0xEE#8 => .ret
  | _ => .unrecognized w

/-- Group 5 selects on the low nibble (R78). -/
def decodeGroup5 (w : Word) : Instr :=
  match nibbleField w with
  | 0x0#4 => .ske (xField w) (yField w)
  | _ => .unrecognized w

/-- Group 8 selects on the low nibble (R79). -/
def decodeGroup8 (w : Word) : Instr :=
  match nibbleField w with
  | 0x0#4 => .ld (xField w) (yField w)
  | 0x1#4 => .or (xField w) (yField w)
  | 0x2#4 => .and (xField w) (yField w)
  | 0x3#4 => .xor (xField w) (yField w)
  | 0x4#4 => .add (xField w) (yField w)
  | 0x5#4 => .sub (xField w) (yField w)
  | 0x6#4 => .shr (xField w) (yField w)
  | 0x7#4 => .subr (xField w) (yField w)
  | 0xE#4 => .shl (xField w) (yField w)
  | _ => .unrecognized w

/-- Group 9 selects on the low nibble (R80). -/
def decodeGroup9 (w : Word) : Instr :=
  match nibbleField w with
  | 0x0#4 => .skne (xField w) (yField w)
  | _ => .unrecognized w

/-- Group E selects on the full low byte (R81). -/
def decodeGroupE (w : Word) : Instr :=
  match nnField w with
  | 0x9E#8 => .skp (xField w)
  | 0xA1#8 => .sknp (xField w)
  | _ => .unrecognized w

/-- Group F selects on the full low byte (R82). -/
def decodeGroupF (w : Word) : Instr :=
  match nnField w with
  | 0x07#8 => .ldft (xField w)
  | 0x0A#8 => .ldk (xField w)
  | 0x15#8 => .lddt (xField w)
  | 0x18#8 => .ldst (xField w)
  | 0x1E#8 => .addi (xField w)
  | 0x29#8 => .font (xField w)
  | 0x33#8 => .bcd (xField w)
  | 0x55#8 => .sreg (xField w)
  | 0x65#8 => .lreg (xField w)
  | _ => .unrecognized w

/-- The decoder: a total, pure function of the opcode alone (R70, R88). The high nibble selects the group (R75); the
groups without a second selector are R83's. The last arm is never reached: the sixteen groups stand above it. -/
def decode (w : Word) : Instr :=
  match groupField w with
  | 0x0#4 => decodeGroup0 w
  | 0x1#4 => .jmp (nnnField w)
  | 0x2#4 => .call (nnnField w)
  | 0x3#4 => .skeb (xField w) (nnField w)
  | 0x4#4 => .skneb (xField w) (nnField w)
  | 0x5#4 => decodeGroup5 w
  | 0x6#4 => .ldb (xField w) (nnField w)
  | 0x7#4 => .addb (xField w) (nnField w)
  | 0x8#4 => decodeGroup8 w
  | 0x9#4 => decodeGroup9 w
  | 0xA#4 => .ldi (nnnField w)
  | 0xB#4 => .jmpz (nnnField w)
  | 0xC#4 => .rnd (xField w) (nnField w)
  | 0xD#4 => .draw (xField w) (yField w) (nField w)
  | 0xE#4 => decodeGroupE w
  | 0xF#4 => decodeGroupF w
  | _ => .unrecognized w

/-! ## Bytes (R52, R71) -/

/-- The opcode two consecutive bytes spell, big-endian: the byte at the lower address holds bits 15 to 8 (R52). -/
def wordOfBytes (hi lo : Byte) : Word := hi ++ lo

/-- Why a byte sequence spells no instruction. The decoder of words refuses nothing (R70). -/
inductive DecodeError where
  /-- Fewer than the two bytes every instruction has (R71). -/
  | truncated (available : Nat)
  deriving DecidableEq, Repr

/-- Decode the instruction at the head of a byte sequence: it and the bytes after it, or the error by name. -/
def decodeBytes : List Byte → Except DecodeError (Instr × List Byte)
  | hi :: lo :: rest => .ok (decode (wordOfBytes hi lo), rest)
  | short => .error (.truncated short.length)

/-- The two bytes of a word as the hardware stores them, the one at the lower address first (R52). -/
def bytesOfWord (w : Word) : List Byte := [w.extractLsb' 8 8, w.extractLsb' 0 8]

/-- The instruction the decoder reads from the opcode-table word `w` of `nbits` bits (bit 0 is the least significant
bit of the one 16-bit word, R9); none when the word has bits above an instruction's sixteen. -/
def decodeTableWord (nbits w : Nat) : Option Instr :=
  let v := w % 2 ^ nbits
  if v < 2 ^ 16 then
    match decodeBytes (bytesOfWord (BitVec.ofNat 16 v)) with
    | .ok (i, _) => some i
    | .error _ => none
  else none

/-! ## The encoder, from the patterns of R76 -/

/-- The four bits of a register index or row count. -/
def fieldBits (x : Fin 16) : BitVec 4 := BitVec.ofFin x

/-- A word of the form gnnn. -/
def encodeAddr (g : BitVec 4) (nnn : Addr12) : Word := g ++ nnn

/-- A word of the form gxnn, with nn an immediate or a selector. -/
def encodeRegByte (g : BitVec 4) (x : Reg) (nn : Byte) : Word := (g ++ fieldBits x) ++ nn

/-- A word of the form gxyn, with n a row count or a selector. -/
def encodeRegReg (g : BitVec 4) (x y : Reg) (n : BitVec 4) : Word := ((g ++ fieldBits x) ++ fieldBits y) ++ n

/-- The word of an instruction (R76). The ignored bits 11..8 of CLS and RET are written as 0 (log 26). -/
def encode : Instr → Word
  | .cls => 0x00E0
  | .ret => 0x00EE
  | .jmp nnn => encodeAddr 0x1 nnn
  | .call nnn => encodeAddr 0x2 nnn
  | .skeb x nn => encodeRegByte 0x3 x nn
  | .skneb x nn => encodeRegByte 0x4 x nn
  | .ske x y => encodeRegReg 0x5 x y 0x0
  | .skne x y => encodeRegReg 0x9 x y 0x0
  | .ldb x nn => encodeRegByte 0x6 x nn
  | .addb x nn => encodeRegByte 0x7 x nn
  | .ld x y => encodeRegReg 0x8 x y 0x0
  | .or x y => encodeRegReg 0x8 x y 0x1
  | .and x y => encodeRegReg 0x8 x y 0x2
  | .xor x y => encodeRegReg 0x8 x y 0x3
  | .add x y => encodeRegReg 0x8 x y 0x4
  | .sub x y => encodeRegReg 0x8 x y 0x5
  | .subr x y => encodeRegReg 0x8 x y 0x7
  | .shr x y => encodeRegReg 0x8 x y 0x6
  | .shl x y => encodeRegReg 0x8 x y 0xE
  | .ldi nnn => encodeAddr 0xA nnn
  | .jmpz nnn => encodeAddr 0xB nnn
  | .rnd x nn => encodeRegByte 0xC x nn
  | .draw x y n => encodeRegReg 0xD x y (fieldBits n)
  | .skp x => encodeRegByte 0xE x 0x9E
  | .sknp x => encodeRegByte 0xE x 0xA1
  | .ldft x => encodeRegByte 0xF x 0x07
  | .ldk x => encodeRegByte 0xF x 0x0A
  | .lddt x => encodeRegByte 0xF x 0x15
  | .ldst x => encodeRegByte 0xF x 0x18
  | .addi x => encodeRegByte 0xF x 0x1E
  | .font x => encodeRegByte 0xF x 0x29
  | .bcd x => encodeRegByte 0xF x 0x33
  | .sreg x => encodeRegByte 0xF x 0x55
  | .lreg x => encodeRegByte 0xF x 0x65
  | .unrecognized raw => raw

/-! ## The opcode map as rows (R76) -/

/-- One row of R76's map: a word `w` is the row's when `w &&& mask = value`. -/
structure OpcodeRow where
  mnemonic : String
  mask : Word
  value : Word
  deriving DecidableEq, Repr

/-- The row matches the word. -/
def OpcodeRow.matchesWord (r : OpcodeRow) (w : Word) : Bool := (w &&& r.mask) == r.value

/-- The 34 rows of R76, in its order. -/
def opcodeMap : List OpcodeRow :=
  [⟨"CLS", 0xF0FF, 0x00E0⟩, ⟨"RET", 0xF0FF, 0x00EE⟩, ⟨"JMP", 0xF000, 0x1000⟩, ⟨"CALL", 0xF000, 0x2000⟩,
   ⟨"SKEB", 0xF000, 0x3000⟩, ⟨"SKNEB", 0xF000, 0x4000⟩, ⟨"SKE", 0xF00F, 0x5000⟩, ⟨"SKNE", 0xF00F, 0x9000⟩]
  ++ [⟨"LDB", 0xF000, 0x6000⟩, ⟨"ADDB", 0xF000, 0x7000⟩, ⟨"LD", 0xF00F, 0x8000⟩, ⟨"OR", 0xF00F, 0x8001⟩,
   ⟨"AND", 0xF00F, 0x8002⟩, ⟨"XOR", 0xF00F, 0x8003⟩, ⟨"ADD", 0xF00F, 0x8004⟩, ⟨"SUB", 0xF00F, 0x8005⟩,
   ⟨"SUBR", 0xF00F, 0x8007⟩, ⟨"SHR", 0xF00F, 0x8006⟩, ⟨"SHL", 0xF00F, 0x800E⟩]
  ++ [⟨"LDI", 0xF000, 0xA000⟩, ⟨"JMPZ", 0xF000, 0xB000⟩, ⟨"RND", 0xF000, 0xC000⟩, ⟨"DRAW", 0xF000, 0xD000⟩,
   ⟨"SKP", 0xF0FF, 0xE09E⟩, ⟨"SKNP", 0xF0FF, 0xE0A1⟩]
  ++ [⟨"LDFT", 0xF0FF, 0xF007⟩, ⟨"LDK", 0xF0FF, 0xF00A⟩, ⟨"LDDT", 0xF0FF, 0xF015⟩, ⟨"LDST", 0xF0FF, 0xF018⟩,
   ⟨"ADDI", 0xF0FF, 0xF01E⟩, ⟨"FONT", 0xF0FF, 0xF029⟩, ⟨"BCD", 0xF0FF, 0xF033⟩, ⟨"SREG", 0xF0FF, 0xF055⟩,
   ⟨"LREG", 0xF0FF, 0xF065⟩]

end Sys2Proof
end

