-- ==== Sys2Proof/Machine/Memory.lean ====
section
/-! DEFINITION. Memory: what it holds right after a load of nothing, its canonical form, and reading and writing one
byte or a run of bytes (10_state.md R30 to R33, 20_memory.md R50 to R58). -/

namespace Sys2Proof.Machine

/-- The number of bytes of the one address space (R50). -/
def memorySize : Nat := 4096

/-- The first address after the font area 0x000-0x04F (R31, R51). -/
def fontEnd : Nat := 0x050

/-- The default of the parameter FONT, glyph by glyph from 0 to F, top row first (R32, R33; decision D11, log 5). -/
def fontTable : List Byte :=
  [0xF0, 0x90, 0x90, 0x90, 0xF0] ++ [0x20, 0x60, 0x20, 0x20, 0x70]
  ++ [0xF0, 0x10, 0xF0, 0x80, 0xF0] ++ [0xF0, 0x10, 0xF0, 0x10, 0xF0]
  ++ [0x90, 0x90, 0xF0, 0x10, 0x10] ++ [0xF0, 0x80, 0xF0, 0x10, 0xF0]
  ++ [0xF0, 0x80, 0xF0, 0x90, 0xF0] ++ [0xF0, 0x10, 0x20, 0x40, 0x40]
  ++ [0xF0, 0x90, 0xF0, 0x90, 0xF0] ++ [0xF0, 0x90, 0xF0, 0x10, 0xF0]
  ++ [0xF0, 0x90, 0xF0, 0x90, 0x90] ++ [0xE0, 0x90, 0xE0, 0x90, 0xE0]
  ++ [0xF0, 0x80, 0x80, 0x80, 0xF0] ++ [0xE0, 0x90, 0x90, 0x90, 0xE0]
  ++ [0xF0, 0x80, 0xF0, 0x80, 0xF0] ++ [0xF0, 0x80, 0xF0, 0x80, 0x80]

/-- The default of FONT as the 80 bytes it is (R33). -/
def fontDefault : Vector Byte 80 := ⟨fontTable.toArray, by decide⟩

/-- What an address that memory does not list reads as: the font in the font area and 0x00 elsewhere, the contents
right after a load of the empty ROM (R42, R272; logs 5, 6). -/
def initialByte (a : Nat) : Byte := fontTable.getD a 0x00

/-- The byte at address `a`. The caller has checked that `a` is in the address space (R10). -/
def Memory.read : Memory → Nat → Byte
  | [], a => initialByte a
  | (b, v) :: m, a => if a = b then v else Memory.read m a

/-- Memory with no entry for address `a`. -/
def Memory.erase (a : Nat) : Memory → Memory
  | [] => []
  | (b, v) :: m => if a = b then Memory.erase a m else (b, v) :: Memory.erase a m

/-- Put a cell before the first cell of a higher address. -/
def Memory.insert (c : Host.Cell) : Memory → Memory
  | [] => [c]
  | d :: m => if c.1 < d.1 then c :: d :: m else d :: Memory.insert c m

/-- Set the byte at address `a` (R10). An entry equal to what an unlisted address reads as is not kept. The caller
has checked the bounds and the font area. -/
def Memory.write (m : Memory) (a : Nat) (v : Byte) : Memory :=
  if v = initialByte a then m.erase a else (m.erase a).insert (a, v)

/-- Write a run of bytes at ascending addresses from `base`, one byte an access (R53). -/
def Memory.writeRun (m : Memory) (base : Nat) : List Byte → Memory
  | [] => m
  | v :: vs => Memory.writeRun (m.write base v) (base + 1) vs

/-- Read a run of `len` bytes at ascending addresses from `base`, one byte an access (R53). -/
def Memory.readRun (m : Memory) (base : Nat) : Nat → List Byte
  | 0 => []
  | len + 1 => m.read base :: Memory.readRun m (base + 1) len

/-- The cell is in the address space and differs from what an unlisted address reads as. -/
def cellOk (c : Host.Cell) : Bool := decide (c.1 < memorySize) && (c.2 != initialByte c.1)

/-- The canonical form: addresses strictly rising, every cell in the address space and none equal to what an
unlisted address reads as. Equal memories are then equal lists. -/
def Memory.wf : Memory → Bool
  | [] => true
  | [c] => cellOk c
  | c :: d :: m => cellOk c && decide (c.1 < d.1) && Memory.wf (d :: m)

end Sys2Proof.Machine
end

