-- ==== Sys2Proof/Machine/Ops.lean ====
section
/-! DEFINITION. The named operations over registers, memory, the stack and the program counter, the checks an
instruction makes before it writes, raising a fault (the core's one exception entry), and the fetch. -/

namespace Sys2Proof.Machine

/-! ## Registers (R21, R23, R24) -/

/-- V[x]. -/
def State.reg (s : State) (x : Reg) : Byte := s.v[x.val]

/-- V[x] <- b. No register is hard-wired (R21). -/
def State.setReg (s : State) (x : Reg) (b : Byte) : State := { s with v := s.v.set x.val b }

/-- VF <- b. -/
def State.setVF (s : State) (b : Byte) : State := s.setReg Reg.vf b

/-- I <- w. -/
def State.setI (s : State) (w : Word) : State := { s with i := w }

/-- pc <- w. -/
def State.setPc (s : State) (w : Word) : State := { s with pc := w }

/-! ## The program-counter sequencer (40_step.md R103, R107, R108) -/

/-- The advance before dispatch: pc <- pc + 2 (R103). -/
def State.advancePc (s : State) : State := s.setPc (s.pc + 2)

/-- A skip, taken when its condition holds: pc <- pc + 2 once more (R107). -/
def State.skipIf (s : State) (cond : Bool) : State := if cond then s.setPc (s.pc + 2) else s

/-- A rewind: pc <- pc - 2, so the next step fetches the same instruction (R108). -/
def State.rewindPc (s : State) : State := s.setPc (s.pc - 2)

/-- The address the executing instruction was fetched from, the `a` of R12: pc - 2 during its execution. -/
def State.fetchedFrom (s : State) : Word := s.pc - 2

/-! ## Memory through State -/

/-- MemRead(a, 1) (R10). -/
def State.readByte (s : State) (a : Nat) : Byte := s.mem.read a

/-- The bytes of a run of memory at ascending addresses (R53). -/
def State.readBytes (s : State) (base len : Nat) : List Byte := s.mem.readRun base len

/-- Store bytes at ascending addresses from `base` (R53). -/
def State.storeBytes (s : State) (base : Nat) (bytes : List Byte) : State :=
  { s with mem := s.mem.writeRun base bytes }

/-! ## The stack (10_state.md R26, R27) -/

/-- STACK[j]. -/
def State.stackEntry (s : State) (j : Nat) : Word := s.stack[j]?.getD 0

/-- The writes of Push(v), after its check (R27). -/
def State.push (s : State) (w : Word) : State :=
  { s with stack := s.stack.setIfInBounds s.sp.val w, sp := s.sp + 1 }

/-- The write of Pop(), after its check (R27): the entry is then STACK[SP]. -/
def State.pop (s : State) : State := { s with sp := s.sp - 1 }

/-- The entry Pop() returns (R27). -/
def State.top (s : State) : Word := s.stackEntry (s.sp - 1).val

/-! ## The timers and the keypad's wait sub-state (R28, R29, R36) -/

/-- DT <- b. -/
def State.setDT (s : State) (b : Byte) : State := { s with dt := b }

/-- ST <- b. -/
def State.setST (s : State) (b : Byte) : State := { s with st := b }

/-- WAITING <- w and RELEASED <- r. -/
def State.setWait (s : State) (w : Bool) (r : Option Key) : State := { s with waiting := w, released := r }

/-- KEY[k]. -/
def State.keyDown (s : State) (k : Nat) : Bool := s.key[k]?.getD false

/-! ## The framebuffer (R34, R37) -/

/-- FB <- fb and DIRTY <- d. -/
def State.setDisplay (s : State) (fb : Vector (Vector Bool 32) 64) (d : Bool) : State :=
  { s with fb := fb, dirty := d }

/-! ## The free draws (log 3) -/

/-- A draw was taken: the next one is another. -/
def State.nextDraw (s : State) : State := { s with draws := s.draws + 1 }

/-! ## Faults (60_exceptions.md R240, R245, R246) -/

/-- `raise Fault(kind)`: the core's exception entry. HALT <- kind and the step ends; nothing else changes, so on an
instruction fault pc stays at a + 2 and no write of the instruction is made (R10, R240, R246). There is no handler
and no return (R247). -/
def State.raiseFault (s : State) (k : FaultKind) : State := { s with halt := some k }

/-- The form every instruction that can fault has: the check comes first (R109, R246). With a fault it is raised in
`s`; with none the effect is the next state. -/
def checked (check : Option FaultKind) (s effect : State) : Outcome :=
  match check with
  | some k => .next (s.raiseFault k)
  | none => .next effect

/-- CheckRead(base, len) (44_index_memory.md R200): the whole run, with exact sums. -/
def checkRead (base len : Nat) : Option FaultKind :=
  if base + len > memorySize then some .memoryOutOfBounds else none

/-- CheckWrite(base, len) (R200): the bounds first, then the font area (R56, R245). -/
def checkWrite (base len : Nat) : Option FaultKind :=
  if base + len > memorySize then some .memoryOutOfBounds
  else if base < fontEnd then some .fontAreaWrite
  else none

/-- The check of Push (R27). -/
def checkPush (s : State) : Option FaultKind := if s.sp = 16 then some .stackOverflow else none

/-- The check of Pop (R27). -/
def checkPop (s : State) : Option FaultKind := if s.sp = 0 then some .stackUnderflow else none

/-- The check of a key index taken from a register (45_timers_keypad.md R228). -/
def checkKey (k : Byte) : Option FaultKind := if k.toNat > 15 then some .invalidKey else none

/-- The check of FONT's digit (R203). -/
def checkDigit (d : Byte) : Option FaultKind := if d.toNat > 15 then some .invalidFontDigit else none

/-- The check of ADDI's exact sum (R202). -/
def checkIndex (i : Word) (b : Byte) : Option FaultKind :=
  if i.toNat + b.toNat > 0xFFFF then some .indexOverflow else none

/-! ## The fetch (40_step.md R102, R103) -/

/-- A fetch at pc is inside memory: pc + 1 <= 0xFFF (R102). -/
def State.canFetch (s : State) : Bool := decide (s.pc.toNat + 1 ≤ 0xFFF)

/-- FetchWord(pc): the big-endian word of the bytes at pc and pc + 1 (R52, R103). -/
def State.fetchWord (s : State) : Word := wordOfBytes (s.readByte s.pc.toNat) (s.readByte (s.pc.toNat + 1))

/-- The instruction at pc (R104). -/
def State.fetchInstr (s : State) : Instr := decode s.fetchWord

/-- A step whose fetch is out of bounds raises FetchOutOfBounds and changes nothing else (R102). -/
def fetchFault (s : State) : Outcome := .next (s.raiseFault .fetchOutOfBounds)

/-- A step of a core halted by `k`: there is no successor, so no state changes (R101; log 10). -/
def haltedStep (k : FaultKind) (_s : State) : Outcome := .fault (.halted k)

end Sys2Proof.Machine
end

