-- ==== Sys2Proof/Machine/Operands.lean ====
section
/-! DEFINITION. The operand forms: a register, two registers, an immediate, an address, and the two operands a quirk
selects (43_alu.md R180, R181; 42_control_flow.md R147). -/

namespace Sys2Proof.Machine

/-- A 12-bit address zero-extended to the 16 bits of pc or I (30_encoding.md R74). -/
def addrOperand (nnn : Addr12) : Word := nnn.setWidth 16

/-- A byte zero-extended to 16 bits (R74). -/
def byteOperand (b : Byte) : Word := b.setWidth 16

/-- The operand of SHR and SHL: V[y] with the quirk `shifting` on, V[x] with it off, when V[y] is not read
(R180, R181). -/
def State.shiftOperand (s : State) (x y : Reg) : Byte := if s.quirks.shifting then s.reg y else s.reg x

/-- The register JMPZ adds: V0, or with the quirk `jumping` on V[nnn[11:8]] (R147). -/
def State.jumpRegister (s : State) (nnn : Addr12) : Reg :=
  if s.quirks.jumping then (nnn.extractLsb' 8 4).toFin else 0

/-- The registers V0 to V[x] in order, the run SREG stores (44_index_memory.md R205). -/
def State.regsUpTo (s : State) (x : Reg) : List Byte := s.v.toList.take (x.val + 1)

/-- Load V0, V1, ... from a run of bytes, the first into `V[from]` (the loop of LREG, R206). -/
def loadRegs (v : Vector Byte 16) (start : Nat) : List Byte → Vector Byte 16
  | [] => v
  | b :: bs => loadRegs (v.setIfInBounds start b) (start + 1) bs

/-- The three decimal digits of a byte: hundreds, tens, ones (R204). -/
def decimalDigits (b : Byte) : List Byte :=
  [BitVec.ofNat 8 (b.toNat / 100), BitVec.ofNat 8 (b.toNat / 10 % 10), BitVec.ofNat 8 (b.toNat % 10)]

/-- The address after a run of x + 1 bytes from I (R207). -/
def State.indexAfter (s : State) (x : Reg) : Word := s.i + BitVec.ofNat 16 (x.val + 1)

end Sys2Proof.Machine
end

