-- ==== Sys2Proof/Machine/Alu.lean ====
section
/-! DEFINITION. The register and ALU instructions (43_alu.md): LDB, ADDB, LD, OR, AND, XOR, ADD, SUB, SUBR, SHR, SHL,
RND; and Unrecognized (40_step.md R106). On entry pc is a + 2 (R103), and none of them changes it. -/

namespace Sys2Proof.Machine

/-- The write order of R183: V[x] <- result, then VF <- flag. With x = 15 the flag stays (decision D16, log 18). -/
def State.setResultFlag (s : State) (x : Reg) (result flag : Byte) : State := (s.setReg x result).setVF flag

/-- The write of OR, AND and XOR: V[x] <- result, then VF <- 0 if the quirk `vf_reset` is on (R174, R183). -/
def State.setBitwise (s : State) (x : Reg) (result : Byte) : State :=
  if s.quirks.vfReset then s.setResultFlag x result 0x00 else s.setReg x result

/-- The write of SHR and SHL: result and flag for x other than 15; for x = 15 the byte `both` that SHIFT_VF selects
(R180, R181). -/
def State.setShift (s : State) (x : Reg) (result flag both : Byte) : State :=
  if x = Reg.vf then s.setVF both else s.setResultFlag x result flag

/-- Unrecognized(raw): a no-op, the raw word is ignored (R87, R106). -/
def execUnrecognized (_raw : Word) (s : State) : Outcome := .next s

/-- LDB Vx,nn: V[x] <- nn (R171). -/
def execLdb (x : Reg) (nn : Byte) (s : State) : Outcome := .next (s.setReg x nn)

/-- ADDB Vx,nn: V[x] <- (V[x] + nn) mod 2^8, no flag (R172). -/
def execAddb (x : Reg) (nn : Byte) (s : State) : Outcome := .next (s.setReg x (s.reg x + nn))

/-- LD Vx,Vy: V[x] <- V[y] (R173). -/
def execLd (x y : Reg) (s : State) : Outcome := .next (s.setReg x (s.reg y))

/-- OR Vx,Vy (R174). -/
def execOr (x y : Reg) (s : State) : Outcome := .next (s.setBitwise x (s.reg x ||| s.reg y))

/-- AND Vx,Vy (R175). -/
def execAnd (x y : Reg) (s : State) : Outcome := .next (s.setBitwise x (s.reg x &&& s.reg y))

/-- XOR Vx,Vy (R176). -/
def execXor (x y : Reg) (s : State) : Outcome := .next (s.setBitwise x (s.reg x ^^^ s.reg y))

/-- ADD Vx,Vy: the sum mod 2^8, VF <- carry (R177). -/
def execAdd (x y : Reg) (s : State) : Outcome :=
  .next (s.setResultFlag x (s.reg x + s.reg y) (carryFlag (s.reg x) (s.reg y)))

/-- SUB Vx,Vy: V[x] - V[y] mod 2^8, VF <- no borrow (R178). -/
def execSub (x y : Reg) (s : State) : Outcome :=
  .next (s.setResultFlag x (s.reg x - s.reg y) (noBorrowFlag (s.reg x) (s.reg y)))

/-- SUBR Vx,Vy: V[y] - V[x] mod 2^8, VF <- no borrow (R179). -/
def execSubr (x y : Reg) (s : State) : Outcome :=
  .next (s.setResultFlag x (s.reg y - s.reg x) (noBorrowFlag (s.reg y) (s.reg x)))

/-- SHR Vx,Vy: shift right by one, VF <- bit 0 of the pre-shift operand (R180). -/
def execShr (x y : Reg) (s : State) : Outcome :=
  let p := s.shiftOperand x y
  .next (s.setShift x (p >>> 1) (shrFlag p) (shrVF s.shiftVF (shrFlag p) (p >>> 1)))

/-- SHL Vx,Vy: shift left by one mod 2^8, VF <- bit 7 of the pre-shift operand (R181). -/
def execShl (x y : Reg) (s : State) : Outcome :=
  let p := s.shiftOperand x y
  .next (s.setShift x (p <<< 1) (shlFlag p) (shlVF s.shiftVF (shlFlag p) (p <<< 1)))

/-- RND with the byte the draw gave: V[x] <- byte AND nn (R182). -/
def State.setRandom (s : State) (x : Reg) (nn draw : Byte) : State := (s.setReg x (draw &&& nn)).nextDraw

/-- RND Vx,nn: one fresh draw an execution, any byte (R182, decision D20, log 3). -/
def execRnd (x : Reg) (nn : Byte) (s : State) : Outcome := .next (s.setRandom x nn (Config.freeByte s.draws))

end Sys2Proof.Machine
end

