-- ==== Sys2Proof/Machine/Control.lean ====
section
/-! DEFINITION. The control-flow instructions (42_control_flow.md): RET, JMP, CALL, SKEB, SKNEB, SKE, SKNE, JMPZ. On
entry pc is a + 2 (R103). -/

namespace Sys2Proof.Machine

/-- RET: pop the stack, pc <- the popped entry + 2; StackUnderflow when it is empty (R140). -/
def execRet (s : State) : Outcome := checked (checkPop s) s (s.pop.setPc (s.top + 2))

/-- JMP nnn: pc <- nnn (R141). -/
def execJmp (nnn : Addr12) (s : State) : Outcome := .next (s.setPc (addrOperand nnn))

/-- CALL nnn: push the address of this CALL, pc <- nnn; StackOverflow when 16 entries are in use (R142). -/
def execCall (nnn : Addr12) (s : State) : Outcome :=
  checked (checkPush s) s ((s.push s.fetchedFrom).setPc (addrOperand nnn))

/-- SKEB Vx,nn: skip if V[x] = nn (R143). -/
def execSkeb (x : Reg) (nn : Byte) (s : State) : Outcome := .next (s.skipIf (s.reg x == nn))

/-- SKNEB Vx,nn: skip if V[x] differs from nn (R144). -/
def execSkneb (x : Reg) (nn : Byte) (s : State) : Outcome := .next (s.skipIf (s.reg x != nn))

/-- SKE Vx,Vy: skip if V[x] = V[y] (R145). -/
def execSke (x y : Reg) (s : State) : Outcome := .next (s.skipIf (s.reg x == s.reg y))

/-- SKNE Vx,Vy: skip if V[x] differs from V[y] (R146). -/
def execSkne (x y : Reg) (s : State) : Outcome := .next (s.skipIf (s.reg x != s.reg y))

/-- JMPZ nnn: pc <- nnn + V0, or nnn + V[nnn[11:8]] with the quirk `jumping` on; the sum is exact and not masked to 12
bits (R147). -/
def execJmpz (nnn : Addr12) (s : State) : Outcome :=
  .next (s.setPc (addrOperand nnn + byteOperand (s.reg (s.jumpRegister nnn))))

end Sys2Proof.Machine
end

