-- ==== Sys2Proof/Machine/Devices.lean ====
section
/-! DEFINITION. The timer and keypad instructions (45_timers_keypad.md): LDFT, LDDT, LDST, SKP, SKNP, LDK. None of
them writes KEY (R226). -/

namespace Sys2Proof.Machine

/-- LDFT Vx: V[x] <- DT (R220). -/
def execLdft (x : Reg) (s : State) : Outcome := .next (s.setReg x s.dt)

/-- LDDT Vx: DT <- V[x] (R221). -/
def execLddt (x : Reg) (s : State) : Outcome := .next (s.setDT (s.reg x))

/-- LDST Vx: ST <- V[x] (R222). -/
def execLdst (x : Reg) (s : State) : Outcome := .next (s.setST (s.reg x))

/-- SKP Vx: skip if key V[x] is pressed; InvalidKey when V[x] > 15 (R223, R228). -/
def execSkp (x : Reg) (s : State) : Outcome :=
  checked (checkKey (s.reg x)) s (s.skipIf (s.keyDown (s.reg x).toNat))

/-- SKNP Vx: skip if key V[x] is not pressed; InvalidKey when V[x] > 15 (R224, R228). -/
def execSknp (x : Reg) (s : State) : Outcome :=
  checked (checkKey (s.reg x)) s (s.skipIf (!s.keyDown (s.reg x).toNat))

/-- LDK's capture: V[x] <- k, WAITING <- false and RELEASED <- none at once (R225, R227). -/
def State.captureKey (s : State) (x : Reg) (k : Key) : State :=
  (s.setReg x (BitVec.ofNat 8 k.val)).setWait false none

/-- LDK Vx (R225, R227). Idle: arm the wait and rewind. Armed with a key released: take it and go on. Armed with none:
rewind again. -/
def execLdk (x : Reg) (s : State) : Outcome :=
  if s.waiting then
    match s.released with
    | some k => .next (s.captureKey x k)
    | none => .next s.rewindPc
  else .next (s.setWait true s.released).rewindPc

end Sys2Proof.Machine
end

