-- ==== Sys2Proof/Machine/Display.lean ====
section
/-! DEFINITION. The framebuffer's compositing and the instructions CLS and DRAW (41_display.md). -/

namespace Sys2Proof.Machine

/-- The framebuffer FB[c][r] (R34). -/
abbrev Screen := Vector (Vector Bool 32) 64

/-- A pixel's place: column and row (R34). -/
abbrev Pixel := Fin 64 × Fin 32

/-- FB[c][r]. -/
def Screen.get (fb : Screen) (p : Pixel) : Bool := fb[p.1.val][p.2.val]

/-- FB[c][r] <- not FB[c][r]. -/
def Screen.toggle (fb : Screen) (p : Pixel) : Screen :=
  fb.set p.1.val (fb[p.1.val].set p.2.val (!fb[p.1.val][p.2.val]))

/-- The pixel at column c and row r of the unbounded plane: reduced modulo the display's size with `wrap` on (R123),
dropped past an edge with it off (R122). -/
def pixelAt (wrap : Bool) (c r : Nat) : Option Pixel :=
  if wrap then some (Fin.ofNat 64 c, Fin.ofNat 32 r)
  else if h : c < 64 ∧ r < 32 then some (⟨c, h.1⟩, ⟨r, h.2⟩)
  else none

/-- The pixels one sprite row toggles, left to right: bit 7 is the leftmost, at column c0 (R130). -/
def rowPixels (wrap : Bool) (c0 r : Nat) (bits : Byte) : List Pixel :=
  (List.range 8).filterMap fun b => if bits.getLsbD (7 - b) then pixelAt wrap (c0 + b) r else none

/-- The pixels a sprite toggles, row by row downward from r0 (R120, R130). -/
def spritePixels (wrap : Bool) (c0 r0 : Nat) : List Byte → List Pixel
  | [] => []
  | bits :: rows => rowPixels wrap c0 r0 bits ++ spritePixels wrap c0 (r0 + 1) rows

/-- What `draw` has done so far: the screen, whether a set pixel was turned off, whether any pixel was toggled. -/
structure Canvas where
  fb : Screen
  collision : Bool
  changed : Bool
  deriving DecidableEq, Repr

/-- One sprite pixel: a collision if it was set, then toggled (R120, R121). -/
def Canvas.plot (k : Canvas) (p : Pixel) : Canvas where
  fb := k.fb.toggle p
  collision := k.collision || k.fb.get p
  changed := true

/-- `draw(x, y, h, bytes, wrapEnabled)` (R120): the start coordinate is reduced modulo the display's size whatever
`wrap` is. -/
def drawSprite (fb : Screen) (x y : Byte) (bytes : List Byte) (wrap : Bool) : Canvas :=
  (spritePixels wrap (x.toNat % 64) (y.toNat % 32) bytes).foldl Canvas.plot
    { fb := fb, collision := false, changed := false }

/-- The writes of DRAW: FB, DIRTY if a pixel was toggled (R125), and VF last (R129). -/
def State.setCanvas (s : State) (k : Canvas) : State :=
  (s.setDisplay k.fb (s.dirty || k.changed)).setVF (collisionFlag k.collision)

/-- CLS: every pixel false and DIRTY true (R124, R128). -/
def execCls (s : State) : Outcome := .next (s.setDisplay blankScreen true)

/-- DRAW Vx,Vy,n: the n bytes at I, at (V[x], V[y]), both read before VF is written; MemoryOutOfBounds when
I + n > 4096 (R129). -/
def execDraw (x y : Reg) (n : Fin 16) (s : State) : Outcome :=
  checked (checkRead s.i.toNat n.val) s
    (s.setCanvas (drawSprite s.fb (s.reg x) (s.reg y) (s.readBytes s.i.toNat n.val) s.quirks.wrap))

end Sys2Proof.Machine
end

