-- ==== Sys2Proof/Machine/Index.lean ====
section
/-! DEFINITION. The index-register and memory instructions (44_index_memory.md): LDI, ADDI, FONT, BCD, SREG, LREG. -/

namespace Sys2Proof.Machine

/-- The quirk `memory`: I <- I + x + 1 after the bytes of SREG or LREG have been moved (R207). `i` is the index the
run started from, read through the state before the instruction. -/
def State.advanceIndex (s : State) (x : Reg) : State := if s.quirks.memory then s.setI (s.indexAfter x) else s

/-- LDI nnn: I <- nnn (R201). -/
def execLdi (nnn : Addr12) (s : State) : Outcome := .next (s.setI (addrOperand nnn))

/-- ADDI Vx: I <- I + V[x], no flag; IndexOverflow when the exact sum exceeds 16 bits (R202). -/
def execAddi (x : Reg) (s : State) : Outcome :=
  checked (checkIndex s.i (s.reg x)) s (s.setI (s.i + byteOperand (s.reg x)))

/-- FONT Vx: I <- 5 * V[x], the address of the digit's glyph; InvalidFontDigit when V[x] > 15 (R203, R32). -/
def execFont (x : Reg) (s : State) : Outcome :=
  checked (checkDigit (s.reg x)) s (s.setI (BitVec.ofNat 16 (5 * (s.reg x).toNat)))

/-- BCD Vx: the decimal digits of V[x] at I, I + 1 and I + 2 (R204). -/
def execBcd (x : Reg) (s : State) : Outcome :=
  checked (checkWrite s.i.toNat 3) s (s.storeBytes s.i.toNat (decimalDigits (s.reg x)))

/-- SREG Vx: V0 to V[x] to memory at I, then the index advance (R205). -/
def execSreg (x : Reg) (s : State) : Outcome :=
  checked (checkWrite s.i.toNat (x.val + 1)) s ((s.storeBytes s.i.toNat (s.regsUpTo x)).advanceIndex x)

/-- The registers after LREG's loop (R206). -/
def State.loadRun (s : State) (x : Reg) : State :=
  { s with v := loadRegs s.v 0 (s.readBytes s.i.toNat (x.val + 1)) }

/-- LREG Vx: V0 to V[x] from memory at I, then the index advance (R206). -/
def execLreg (x : Reg) (s : State) : Outcome :=
  checked (checkRead s.i.toNat (x.val + 1)) s ((s.loadRun x).advanceIndex x)

end Sys2Proof.Machine
end

