-- ==== Sys2Proof/Machine/Dispatch.lean ====
section
/-! DEFINITION. Execute(ins): the dispatch on the decoded variant (40_step.md R105). -/

namespace Sys2Proof.Machine

def exec (i : Instr) (s : State) : Host.Outcome State Fault Refusal :=
  match i with
  | .cls => Sys2Proof.Machine.execCls s
  | .ret => Sys2Proof.Machine.execRet s
  | .jmp nnn => Sys2Proof.Machine.execJmp nnn s
  | .call nnn => Sys2Proof.Machine.execCall nnn s
  | .skeb x nn => Sys2Proof.Machine.execSkeb x nn s
  | .skneb x nn => Sys2Proof.Machine.execSkneb x nn s
  | .ske x y => Sys2Proof.Machine.execSke x y s
  | .skne x y => Sys2Proof.Machine.execSkne x y s
  | .ldb x nn => Sys2Proof.Machine.execLdb x nn s
  | .addb x nn => Sys2Proof.Machine.execAddb x nn s
  | .ld x y => Sys2Proof.Machine.execLd x y s
  | .or x y => Sys2Proof.Machine.execOr x y s
  | .and x y => Sys2Proof.Machine.execAnd x y s
  | .xor x y => Sys2Proof.Machine.execXor x y s
  | .add x y => Sys2Proof.Machine.execAdd x y s
  | .sub x y => Sys2Proof.Machine.execSub x y s
  | .subr x y => Sys2Proof.Machine.execSubr x y s
  | .shr x y => Sys2Proof.Machine.execShr x y s
  | .shl x y => Sys2Proof.Machine.execShl x y s
  | .ldi nnn => Sys2Proof.Machine.execLdi nnn s
  | .jmpz nnn => Sys2Proof.Machine.execJmpz nnn s
  | .rnd x nn => Sys2Proof.Machine.execRnd x nn s
  | .draw x y n => Sys2Proof.Machine.execDraw x y n s
  | .skp x => Sys2Proof.Machine.execSkp x s
  | .sknp x => Sys2Proof.Machine.execSknp x s
  | .ldft x => Sys2Proof.Machine.execLdft x s
  | .ldk x => Sys2Proof.Machine.execLdk x s
  | .lddt x => Sys2Proof.Machine.execLddt x s
  | .ldst x => Sys2Proof.Machine.execLdst x s
  | .addi x => Sys2Proof.Machine.execAddi x s
  | .font x => Sys2Proof.Machine.execFont x s
  | .bcd x => Sys2Proof.Machine.execBcd x s
  | .sreg x => Sys2Proof.Machine.execSreg x s
  | .lreg x => Sys2Proof.Machine.execLreg x s
  | .unrecognized raw => Sys2Proof.Machine.execUnrecognized raw s

end Sys2Proof.Machine
end

