-- ==== Sys2Proof/Machine/Step.lean ====
section
/-! DEFINITION. `step()`: one fetch, decode and execute (40_step.md R100), and storing an instruction where the next
step fetches it. -/

namespace Sys2Proof.Machine

/-- One step (R100): nothing more in a halted core (R101); the fetch check before any instruction check (R102, R245);
then fetch, decode, pc <- pc + 2, execute (R103 to R105). -/
def step (s : State) : Host.Outcome State Fault Refusal :=
  match s.halt with
  | some k => haltedStep k s
  | none => if s.canFetch then exec s.fetchInstr s.advancePc else fetchFault s

/-- The step relation, with the parameters R43 names: under `p` one step leads from the core state `c` to `c'`. The
parameters `next` are those of the step after it: the same launch, at the oracle's next answer. -/
def Steps (p : StepParams) (c c' : CoreState) : Prop :=
  ∃ next : StepParams, step (c.withParams p) = .next (c'.withParams next)

/-- `s` with the opcode-table word `w` of `nbits` bits stored where a step fetches its next instruction: the byte at pc
holds bits 15 to 8 (R52). Where no fetch is possible (pc + 1 > 0xFFF, R102) there is no such place and nothing
changes. -/
def State.withFetchWord (s : State) (nbits w : Nat) : State :=
  if s.canFetch then s.storeBytes s.pc.toNat (bytesOfWord (BitVec.ofNat 16 (w % 2 ^ nbits))) else s

end Sys2Proof.Machine
end

