-- ==== Sys2Proof/Machine/Load.lean ====
section
/-! DEFINITION. `load(rom, quirks)`, the core's only reset (70_reset_and_hazards.md R270 to R272). -/

namespace Sys2Proof.Machine

/-- The program origin and entry point (00_scope.md R7). -/
def programOrigin : Nat := 0x200

/-- The optional launch parameters (92_eei_decisions.md D7, D8, D11, D17), each with the value R42 decides; for
SHIFT_VF and the draw counter, for which the spec decides none, the model's own default (logs 2, 3). -/
structure LaunchParams where
  /-- FONT, the 80 font bytes (R33). -/
  font : Vector Byte 80 := fontDefault
  /-- RESET_V (D7). -/
  resetV : Vector Byte 16 := Vector.replicate 16 0x00
  /-- RESET_I (D7). -/
  resetI : Word := 0x0000
  /-- RESET_TIMERS: DT and ST (D7). -/
  resetDT : Byte := 0x00
  resetST : Byte := 0x00
  /-- INIT_MEM: the bytes outside the font and the ROM (D8). -/
  initMem : Memory := []
  /-- SHIFT_VF (D17). -/
  shiftVF : ShiftVF := .flagLast
  /-- Which free draws this launch meets (log 3). -/
  draws : Nat := 0
  deriving DecidableEq, Repr

/-- Why `load` builds no core (60_exceptions.md R243). -/
inductive LoadError where
  /-- The ROM does not fit (R271). -/
  | romTooLarge
  deriving DecidableEq, Repr

/-- Memory after a load: INIT_MEM, then the font, then the ROM at 0x200 (R272). -/
def loadedMemory (rom : List Byte) (p : LaunchParams) : Memory :=
  (p.initMem.writeRun 0 p.font.toList).writeRun programOrigin rom

/-- The state a successful load builds (R42, R272). -/
def loadedState (rom : List Byte) (quirks : Quirks) (p : LaunchParams) : State where
  mem := loadedMemory rom p
  v := p.resetV
  i := p.resetI
  pc := BitVec.ofNat 16 programOrigin
  stack := Vector.replicate 16 0x0000
  sp := 0
  dt := p.resetDT
  st := p.resetST
  fb := blankScreen
  dirty := false
  key := Vector.replicate 16 false
  waiting := false
  released := none
  halt := none
  quirks := quirks
  shiftVF := p.shiftVF
  draws := p.draws

/-- `load(rom, quirks)` (R270): it fails, and builds no core, exactly when 0x200 + len(rom) >= 4096 (R271). The ROM's
content is not checked. -/
def load (rom : List Byte) (quirks : Quirks) (p : LaunchParams := {}) : Except LoadError State :=
  if programOrigin + rom.length ≥ memorySize then .error .romTooLarge else .ok (loadedState rom quirks p)

end Sys2Proof.Machine
end

