-- ==== Sys2Proof/Machine/Ports.lean ====
section
/-! DEFINITION. The host's ports (00_scope.md R6): the timer tick, key events, the reads, clearing DIRTY, and the host
operations a run is made of (60_exceptions.md R250 to R256). `load` is in Machine/Load.lean. -/

namespace Sys2Proof.Machine

/-- One count down to zero (R250). -/
def countDown (b : Byte) : Byte := if b = 0 then 0 else b - 1

/-- `tick()`: both timers at once, nothing in a halted core (R250, decision D21, log 20). -/
def State.tick (s : State) : State :=
  match s.halt with
  | some _ => s
  | none => (s.setDT (countDown s.dt)).setST (countDown s.st)

/-- KEY[k] <- b. -/
def State.setKey (s : State) (k : Key) (b : Bool) : State := { s with key := s.key.set k.val b }

/-- The form of a key event (R252, R253): nothing in a halted core, HostKeyIndex for an index above 15, else `f`. -/
def State.keyEvent (s : State) (k : Nat) (f : Key → State) : State :=
  match s.halt with
  | some _ => s
  | none => if h : k < 16 then f ⟨k, h⟩ else s.raiseFault .hostKeyIndex

/-- `keyPressed(k)`: KEY[k] <- true (R252). -/
def State.keyPressed (s : State) (k : Nat) : State := s.keyEvent k fun k => s.setKey k true

/-- What an armed LDK holds after key `k` is released (R227, R253): the first release is kept; of a later one and the
key held, either, by a free draw (decision D19, log 4). -/
def State.capture (s : State) (k : Key) : State :=
  if s.waiting then
    match s.released with
    | none => s.setWait true (some k)
    | some held => (s.setWait true (some (if Config.freeBit s.draws then held else k))).nextDraw
  else s

/-- `keyReleased(k)`: KEY[k] <- false, and an armed LDK captures it (R253). -/
def State.keyReleased (s : State) (k : Nat) : State := s.keyEvent k fun k => (s.setKey k false).capture k

/-- The host clears DIRTY (41_display.md R126). -/
def State.clearDirty (s : State) : State := { s with dirty := false }

/-- The host reads DT and ST (R251). -/
def State.delayTimer (s : State) : Byte := s.dt
def State.soundTimer (s : State) : Byte := s.st

/-- The host reads FB[c][r] and DIRTY (R126). -/
def State.pixel (s : State) (p : Pixel) : Bool := Screen.get s.fb p
def State.dirtyFlag (s : State) : Bool := s.dirty

/-- The numeric code of a fault kind (R240, decision D23). -/
def FaultKind.code : FaultKind → Nat
  | .fetchOutOfBounds => 1
  | .stackOverflow => 2
  | .stackUnderflow => 3
  | .memoryOutOfBounds => 4
  | .invalidKey => 5
  | .invalidFontDigit => 6
  | .indexOverflow => 7
  | .fontAreaWrite => 8
  | .hostKeyIndex => 9

/-- The host reads HALT (R241): whether the core has stopped, and why. -/
def State.faultStatus (s : State) : Option FaultKind := s.halt

/-- `toColorModel(fgBytes, bgBytes)`: for each pixel, row by row from (0,0), the pattern of a set or an unset pixel
(R127, decision D27, log 21). It changes no state. -/
def State.toColorModel (s : State) (fg bg : List Byte) : List Byte :=
  (List.finRange 32).flatMap fun r => (List.finRange 64).flatMap fun c => if s.pixel (c, r) then fg else bg

/-- `step()` as the host calls it, on the whole block: a core with no successor stays as it is (R101). -/
def State.stepped (s : State) : State :=
  match step s with
  | .next t => t
  | .fault _ => s
  | .refused _ => s

/-- The host operations that can change the state (R6, R256). -/
inductive HostOp where
  | step
  | tick
  | keyPressed (k : Nat)
  | keyReleased (k : Nat)
  | clearDirty
  deriving DecidableEq, Repr

/-- A host operation as an atomic transition of the block (R5, R256). -/
def HostOp.apply : HostOp → State → State
  | .step, s => s.stepped
  | .tick, s => s.tick
  | .keyPressed k, s => s.keyPressed k
  | .keyReleased k, s => s.keyReleased k
  | .clearDirty, s => s.clearDirty

/-- A run: host operations in any order and any number (R256, decision D25, log 20). -/
def State.runOps (s : State) : List HostOp → State
  | [] => s
  | op :: ops => State.runOps (op.apply s) ops

end Sys2Proof.Machine
end

