-- ==== Sys2Proof/Safety.lean ====
section
/-! DEFINITION. What counts as a safe run: the core runs while HALT is none (10_state.md R38); the invariant every
reachable state meets; the launches and runs of the block; and the frames the statements name. -/

namespace Sys2Proof.Machine

/-- The core runs: no fatal condition has stopped it (R38). -/
def State.running (s : State) : Prop := s.halt = none

/-- The return addresses in use are addresses a CALL was fetched from, at most 0xFFE (42_control_flow.md R140). -/
def State.stackInRange (s : State) : Prop := ∀ j, j < s.sp.val → (s.stackEntry j).toNat ≤ 0xFFE

/-- While LDK is armed the next step fetches an LDK again (45_timers_keypad.md R225). -/
def State.armedAtLdk (s : State) : Prop := s.waiting = true → s.canFetch = true ∧ ∃ x, s.fetchInstr = .ldk x

/-- The invariant of the block. -/
structure State.Inv (s : State) : Prop where
  /-- Memory is in its canonical form, inside the address space (R30). -/
  memory : s.mem.wf = true
  /-- pc lies in 0x000 to 0x10FE (R25). -/
  pcBound : s.pc.toNat ≤ 0x10FE
  /-- Return addresses are fetchable (R140). -/
  stackRange : s.stackInRange
  /-- RELEASED is only ever set while WAITING is true (R36). -/
  releasedOnlyArmed : s.released ≠ none → s.waiting = true
  /-- An armed LDK is fetched again (R225). -/
  armed : s.armedAtLdk

/-- A state that some launch leads to: a successful load with any ROM, quirks and launch parameters whose INIT_MEM is
in canonical form, then host operations in any order and number (R256, R270). -/
def State.reachable (t : State) : Prop :=
  ∃ rom quirks p s ops, p.initMem.wf = true ∧ load rom quirks p = .ok s ∧ t = s.runOps ops

/-! ## Frames: what a transition leaves as it was. Memory is read byte by byte, the display pixel by pixel. -/

/-- Every register outside `written` reads as before. -/
def sameRegs (s t : State) (written : Reg → Prop) : Prop := ∀ j, ¬ written j → t.reg j = s.reg j

/-- Every byte of memory outside `written` reads as before. -/
def sameMemory (s t : State) (written : Nat → Prop) : Prop := ∀ a, ¬ written a → t.readByte a = s.readByte a

/-- No byte of memory changes. -/
def sameAllMemory (s t : State) : Prop := ∀ a, t.readByte a = s.readByte a

/-- The stack pointer and every stack entry are as before. -/
def sameStack (s t : State) : Prop := t.sp = s.sp ∧ ∀ j, t.stackEntry j = s.stackEntry j

/-- Both timers are as before. -/
def sameTimers (s t : State) : Prop := t.dt = s.dt ∧ t.st = s.st

/-- Every pixel and the dirty flag are as before. -/
def sameDisplay (s t : State) : Prop := (∀ p, t.pixel p = s.pixel p) ∧ t.dirty = s.dirty

/-- Every key and LDK's wait sub-state are as before. -/
def sameKeypad (s t : State) : Prop :=
  (∀ k, t.keyDown k = s.keyDown k) ∧ t.waiting = s.waiting ∧ t.released = s.released

/-- HALT, the launch parameters and the draw counter are as before. -/
def sameControl (s t : State) : Prop :=
  t.halt = s.halt ∧ t.quirks = s.quirks ∧ t.shiftVF = s.shiftVF ∧ t.draws = s.draws

/-- The stack, the timers, the display and the keypad are as before. -/
def sameDevices (s t : State) : Prop := sameStack s t ∧ sameTimers s t ∧ sameDisplay s t ∧ sameKeypad s t

/-- Only the general registers in `written`, and pc, may differ. -/
def onlyRegs (s t : State) (written : Reg → Prop) : Prop :=
  sameRegs s t written ∧ t.i = s.i ∧ sameAllMemory s t ∧ sameDevices s t ∧ sameControl s t

/-- Only I, and pc, may differ. -/
def onlyIndex (s t : State) : Prop :=
  (∀ j, t.reg j = s.reg j) ∧ sameAllMemory s t ∧ sameDevices s t ∧ sameControl s t

/-- Nothing but pc may differ. -/
def onlyPc (s t : State) : Prop := onlyIndex s t ∧ t.i = s.i

end Sys2Proof.Machine
end

