-- ==== Sys2Proof/Certificates/Slice0/Obligations.lean ====
section
/-! DEFINITION. The statements for the provers. `exec i s` is stated on the state `s` at entry to an instruction's
execution, so `s.pc` is a + 2 where a is the address it was fetched from (00_scope.md R12, 40_step.md R103). -/

open Sys2Proof Sys2Proof.Machine

namespace Sys2Proof.Says

/-! ## What the statements name -/

/-- The registers an instruction can write: its destination V[x] and, for the instructions of 10_state.md R22, VF. -/
def writesReg (q : Quirks) (i : Instr) (j : Reg) : Prop :=
  match i with
  | .ldb x _ | .addb x _ | .ld x _ | .rnd x _ | .ldft x | .ldk x => j = x
  | .or x _ | .and x _ | .xor x _ => j = x ∨ (q.vfReset = true ∧ j = 15)
  | .add x _ | .sub x _ | .subr x _ | .shr x _ | .shl x _ => j = x ∨ j = 15
  | .draw _ _ _ => j = 15
  | .lreg x => j ≤ x
  | _ => False

/-- The instructions that can write I (R23). -/
def writesIndex (q : Quirks) (i : Instr) : Prop :=
  match i with
  | .ldi _ | .addi _ | .font _ => True
  | .sreg _ | .lreg _ => q.memory = true
  | _ => False

/-- The fault an instruction raises on a state, by the table of 60_exceptions.md R240; none where its rule raises
none. The sums are exact. -/
def faultOf (i : Instr) (s : State) : Option FaultKind :=
  match i with
  | .call _ => if s.sp.val = 16 then some .stackOverflow else none
  | .ret => if s.sp.val = 0 then some .stackUnderflow else none
  | .draw _ _ n => if s.i.toNat + n.val > 4096 then some .memoryOutOfBounds else none
  | .lreg x => if s.i.toNat + (x.val + 1) > 4096 then some .memoryOutOfBounds else none
  | .bcd _ =>
    if s.i.toNat + 3 > 4096 then some .memoryOutOfBounds
    else if s.i.toNat < 0x050 then some .fontAreaWrite else none
  | .sreg x =>
    if s.i.toNat + (x.val + 1) > 4096 then some .memoryOutOfBounds
    else if s.i.toNat < 0x050 then some .fontAreaWrite else none
  | .skp x | .sknp x => if (s.reg x).toNat > 15 then some .invalidKey else none
  | .font x => if (s.reg x).toNat > 15 then some .invalidFontDigit else none
  | .addi x => if s.i.toNat + (s.reg x).toNat > 0xFFFF then some .indexOverflow else none
  | _ => none

/-- The sprite of `DRAW Vx,Vy,n` has a set bit at column c and row r of the display, found from the pixel back to the
sprite: with `wrap` on the distance from the start coordinate is taken modulo the display's size, with it off the
pixel must lie right of and below the start (41_display.md R120, R122, R123; bit 7 leftmost and rows downward, R130
with decision D14, log 16). -/
def spriteCovers (s : State) (x y : Reg) (n : Nat) (c : Fin 64) (r : Fin 32) : Prop :=
  let x0 := (s.reg x).toNat % 64
  let y0 := (s.reg y).toNat % 32
  if s.quirks.wrap then
    let dc := (c.val + 64 - x0) % 64
    let dr := (r.val + 32 - y0) % 32
    dc < 8 ∧ dr < n ∧ (s.readByte (s.i.toNat + dr)).getLsbD (7 - dc) = true
  else
    x0 ≤ c.val ∧ c.val - x0 < 8 ∧ y0 ≤ r.val ∧ r.val - y0 < n ∧
      (s.readByte (s.i.toNat + (r.val - y0))).getLsbD (7 - (c.val - x0)) = true

/-- The operand of a shift (43_alu.md R180, R181). -/
def shiftInput (s : State) (x y : Reg) : Nat := if s.quirks.shifting then (s.reg y).toNat else (s.reg x).toNat

end Sys2Proof.Says

open Sys2Proof.Says

/-! ## Decoding and encoding -/

/-- Words written out from the encodings of 30_encoding.md R76 decode to the instructions they stand for, one or more
of every family. The opcode numbers are the spec's own decision D2 (log 11). -/
def Obligations.SampleWordsDecode : Prop :=
  decode 0x00E0 = .cls ∧ decode 0x0AE0 = .cls ∧ decode 0x00EE = .ret ∧ decode 0x1ABC = .jmp 0xABC ∧
  decode 0x3A7F = .skeb 10 0x7F ∧ decode 0x5120 = .ske 1 2 ∧ decode 0x5121 = .unrecognized 0x5121 ∧
  decode 0x7FFF = .addb 15 0xFF ∧ decode 0x8AB5 = .sub 10 11 ∧ decode 0x8ABE = .shl 10 11 ∧
  decode 0xD125 = .draw 1 2 5 ∧ decode 0xE1A1 = .sknp 1 ∧ decode 0xF10A = .ldk 1 ∧ decode 0xF265 = .lreg 2 ∧
  decode 0x0000 = .unrecognized 0x0000

/-- Every word that matches a row of 30_encoding.md R76 decodes to that row's instruction, with each operand read from
the bits R73 gives it. The opcode numbers and field places are the spec's own decision D2 (log 11). -/
def Obligations.RowsDecodeWithTheirOperands : Prop :=
  ∀ w : Word,
    let nnn : Addr12 := BitVec.ofNat 12 (w.toNat % 4096)
    let nn : Byte := BitVec.ofNat 8 (w.toNat % 256)
    let x : Reg := Fin.ofNat 16 (w.toNat / 256 % 16)
    let y : Reg := Fin.ofNat 16 (w.toNat / 16 % 16)
    let n : Fin 16 := Fin.ofNat 16 (w.toNat % 16)
    (w &&& 0xF0FF = 0x00E0 → decode w = .cls) ∧ (w &&& 0xF0FF = 0x00EE → decode w = .ret) ∧
    (w &&& 0xF000 = 0x1000 → decode w = .jmp nnn) ∧ (w &&& 0xF000 = 0x2000 → decode w = .call nnn) ∧
    (w &&& 0xF000 = 0x3000 → decode w = .skeb x nn) ∧ (w &&& 0xF000 = 0x4000 → decode w = .skneb x nn) ∧
    (w &&& 0xF00F = 0x5000 → decode w = .ske x y) ∧ (w &&& 0xF00F = 0x9000 → decode w = .skne x y) ∧
    (w &&& 0xF000 = 0x6000 → decode w = .ldb x nn) ∧ (w &&& 0xF000 = 0x7000 → decode w = .addb x nn) ∧
    (w &&& 0xF00F = 0x8000 → decode w = .ld x y) ∧ (w &&& 0xF00F = 0x8001 → decode w = .or x y) ∧
    (w &&& 0xF00F = 0x8002 → decode w = .and x y) ∧ (w &&& 0xF00F = 0x8003 → decode w = .xor x y) ∧
    (w &&& 0xF00F = 0x8004 → decode w = .add x y) ∧ (w &&& 0xF00F = 0x8005 → decode w = .sub x y) ∧
    (w &&& 0xF00F = 0x8007 → decode w = .subr x y) ∧ (w &&& 0xF00F = 0x8006 → decode w = .shr x y) ∧
    (w &&& 0xF00F = 0x800E → decode w = .shl x y) ∧ (w &&& 0xF000 = 0xA000 → decode w = .ldi nnn) ∧
    (w &&& 0xF000 = 0xB000 → decode w = .jmpz nnn) ∧ (w &&& 0xF000 = 0xC000 → decode w = .rnd x nn) ∧
    (w &&& 0xF000 = 0xD000 → decode w = .draw x y n) ∧ (w &&& 0xF0FF = 0xE09E → decode w = .skp x) ∧
    (w &&& 0xF0FF = 0xE0A1 → decode w = .sknp x) ∧ (w &&& 0xF0FF = 0xF007 → decode w = .ldft x) ∧
    (w &&& 0xF0FF = 0xF00A → decode w = .ldk x) ∧ (w &&& 0xF0FF = 0xF015 → decode w = .lddt x) ∧
    (w &&& 0xF0FF = 0xF018 → decode w = .ldst x) ∧ (w &&& 0xF0FF = 0xF01E → decode w = .addi x) ∧
    (w &&& 0xF0FF = 0xF029 → decode w = .font x) ∧ (w &&& 0xF0FF = 0xF033 → decode w = .bcd x) ∧
    (w &&& 0xF0FF = 0xF055 → decode w = .sreg x) ∧ (w &&& 0xF0FF = 0xF065 → decode w = .lreg x)

/-- No word matches two rows of the opcode map; a word that matches a row decodes to an instruction of that row's
mnemonic; a word that matches none is Unrecognized (30_encoding.md R76; numbers by decision D2, log 11). -/
def Obligations.OpcodeMapIsUnambiguous : Prop :=
  ∀ w : Word,
    (∀ r ∈ opcodeMap, ∀ r' ∈ opcodeMap, r.matchesWord w = true → r'.matchesWord w = true → r = r') ∧
    (∀ r ∈ opcodeMap, r.matchesWord w = true → (decode w).mnemonic = r.mnemonic) ∧
    ((∀ r ∈ opcodeMap, r.matchesWord w = false) → decode w = .unrecognized w)

/-- Unrecognized is the verdict for exactly the words of the table of 30_encoding.md R84 (R89), it carries the raw opcode
(R87), and executing it is a no-op whatever the raw opcode is (40_step.md R106). The selector numbers rest on the spec's
decision D2 (log 11), that no group-0 word is a 35th instruction on its decision D3 (log 24). -/
def Obligations.UnrecognizedWordsAreNoOps : Prop :=
  (∀ w : Word, decode w = .unrecognized w ↔
    (w.toNat / 4096 = 0x0 ∧ w.toNat % 256 ≠ 0xE0 ∧ w.toNat % 256 ≠ 0xEE) ∨
    (w.toNat / 4096 = 0x5 ∧ w.toNat % 16 ≠ 0) ∨
    (w.toNat / 4096 = 0x8 ∧ 0x8 ≤ w.toNat % 16 ∧ w.toNat % 16 ≠ 0xE) ∨
    (w.toNat / 4096 = 0x9 ∧ w.toNat % 16 ≠ 0) ∨
    (w.toNat / 4096 = 0xE ∧ w.toNat % 256 ≠ 0x9E ∧ w.toNat % 256 ≠ 0xA1) ∨
    (w.toNat / 4096 = 0xF ∧ w.toNat % 256 ∉ [0x07, 0x0A, 0x15, 0x18, 0x1E, 0x29, 0x33, 0x55, 0x65])) ∧
  (∀ w raw : Word, decode w = .unrecognized raw → raw = w) ∧
  (∀ (raw : Word) (s : State), exec (.unrecognized raw) s = .next s)

/-- Decoding the word of a well-formed instruction gives it back, with every operand. -/
def Obligations.DecodeEncodeRoundTrip : Prop := ∀ i : Instr, i.wellFormed = true → decode (encode i) = i

/-- The decoder answers a well-formed instruction for every word, and the encoder gives the word back, but for the
ignored bits 11 to 8 of CLS and RET (30_encoding.md R77), which it writes as zeros (the model's choice, log 26). -/
def Obligations.EncodeDecodeRoundTrip : Prop :=
  ∀ w : Word, (decode w).wellFormed = true ∧
    encode (decode w) = if decode w = .cls ∨ decode w = .ret then w &&& 0xF0FF else w

/-! ## The step -/

/-- 40_step.md R104 and 20_memory.md R52: while the core runs and the fetch is in bounds, a step executes the instruction the
big-endian word at pc decodes to, whatever it holds, with pc advanced by 2 first. -/
def Obligations.StepRunsTheDecodedInstruction : Prop :=
  ∀ (s : State) (i : Instr), s.halt = none → s.pc.toNat + 1 ≤ 0xFFF →
    decode (((s.readByte s.pc.toNat).setWidth 16 <<< 8) ||| (s.readByte (s.pc.toNat + 1)).setWidth 16) = i →
    step s = exec i { s with pc := s.pc + 2 }

/-- A fetch with pc + 1 > 0xFFF halts the core and changes nothing else (40_step.md R102); a halted core has no
successor step (R101). That a fault is a next state with HALT written, and that the step after it answers a fault, is
the model's reading of decision D23 (log 10). -/
def Obligations.FetchFaultsAndHaltedSteps : Prop :=
  (∀ s : State, s.halt = none → s.pc.toNat + 1 > 0xFFF →
    step s = .next { s with halt := some .fetchOutOfBounds }) ∧
  (∀ (s : State) (k : FaultKind), s.halt = some k → step s = .fault (.halted k))

/-- A step answers a next state exactly while the core runs, and an instruction always does: none is refused and none
faults outside HALT. (The model's reading of decision D23, log 10.) -/
def Obligations.RunningCoreAlwaysSteps : Prop :=
  (∀ s : State, (∃ t, step s = .next t) ↔ s.halt = none) ∧ (∀ (i : Instr) (s : State), ∃ t, exec i s = .next t)

/-- The fault table of 60_exceptions.md R240: an instruction of a running core halts it with the kind the table names
exactly under the table's condition, and raises no other (R242, R245). Rests on the spec's decisions D5, D12, D13, D23
and D24 (logs 10, 13, 14, 15). -/
def Obligations.FaultsAreThoseOfTheTable : Prop :=
  ∀ (i : Instr) (s : State), s.halt = none → ∃ t, exec i s = .next t ∧ t.halt = faultOf i s

/-- Faults are precise (60_exceptions.md R246, 40_step.md R109; decision D13, log 15): after a step that faults, the
state is the one before it with HALT written and pc = a + 2, or pc unchanged for a fetch fault. -/
def Obligations.FaultsArePrecise : Prop :=
  ∀ (s t : State) (k : FaultKind), step s = .next t → t.halt = some k →
    t = { s with halt := some k, pc := if s.pc.toNat + 1 ≤ 0xFFF then s.pc + 2 else s.pc }

/-- The pc after a step that does not fault is one of those 40_step.md R110 lists, each for its own instructions: a + 2 for
all but JMP, CALL, JMPZ and RET, a + 4 for the skips, a for LDK, the target for each jump and return. -/
def Obligations.NextPcIsOneOfTheListed : Prop :=
  ∀ s t : State, step s = .next t → t.halt = none →
    (t.pc = s.pc + 2 ∧ s.fetchInstr ≠ .ret ∧
      ∀ nnn, s.fetchInstr ≠ .jmp nnn ∧ s.fetchInstr ≠ .call nnn ∧ s.fetchInstr ≠ .jmpz nnn) ∨
    (t.pc = s.pc + 4 ∧ ∃ x y nn, s.fetchInstr ∈ [Instr.skeb x nn, .skneb x nn, .ske x y, .skne x y, .skp x, .sknp x]) ∨
    (t.pc = s.pc ∧ ∃ x, s.fetchInstr = .ldk x) ∨
    (∃ nnn : Addr12, (s.fetchInstr = .jmp nnn ∨ s.fetchInstr = .call nnn) ∧ t.pc.toNat = nnn.toNat) ∨
    (∃ nnn : Addr12, s.fetchInstr = .jmpz nnn ∧
      (t.pc.toNat = nnn.toNat + (s.reg 0).toNat ∨
        t.pc.toNat = nnn.toNat + (s.reg (Fin.ofNat 16 (nnn.toNat / 256))).toNat)) ∨
    (s.fetchInstr = .ret ∧ t.pc = s.stackEntry (s.sp.val - 1) + 2)

/-! ## What may write what -/

/-- An instruction changes no general register but its destination and, for the instructions of 10_state.md R22 only, VF.
This sharpens R21's list, a derived sentence of the spec, with LREG's run V0 to V[x] (44_index_memory.md R206). -/
def Obligations.OnlyDestinationsAreWritten : Prop :=
  ∀ (i : Instr) (s t : State) (j : Reg), exec i s = .next t → ¬ writesReg s.quirks i j → t.reg j = s.reg j

/-- Each piece of state but the general registers and pc is written by its own instructions only: I (10_state.md R23),
the stack (R26), FB and DIRTY (R34, R37), DT (R28), ST (R29), memory (20_memory.md R57), the LDK wait (R36), the draw
counter (the model's own, log 3). -/
def Obligations.StateIsWrittenByItsInstructionsOnly : Prop :=
  ∀ (i : Instr) (s t : State), exec i s = .next t →
    (¬ writesIndex s.quirks i → t.i = s.i) ∧
    ((∀ nnn, i ≠ .call nnn) → i ≠ .ret → sameStack s t) ∧
    (i ≠ .cls → (∀ x y n, i ≠ .draw x y n) → sameDisplay s t) ∧
    ((∀ x, i ≠ .lddt x) → t.dt = s.dt) ∧
    ((∀ x, i ≠ .ldst x) → t.st = s.st) ∧
    ((∀ x, i ≠ .bcd x) → (∀ x, i ≠ .sreg x) → sameAllMemory s t) ∧
    ((∀ x, i ≠ .ldk x) → t.waiting = s.waiting ∧ t.released = s.released) ∧
    ((∀ x nn, i ≠ .rnd x nn) → t.draws = s.draws)

/-- 45_timers_keypad.md R226: SKP, SKNP and LDK never write KEY; only the host's keyPressed and keyReleased do, and
only the key they name. -/
def Obligations.OnlyTheHostWritesKeys : Prop :=
  (∀ (x : Reg) (s : State), ∀ i ∈ [Instr.skp x, .sknp x, .ldk x], ∃ t, exec i s = .next t ∧
    ∀ k, t.keyDown k = s.keyDown k) ∧
  (∀ (op : HostOp) (s : State) (k : Nat), (op.apply s).keyDown k ≠ s.keyDown k →
    op = .keyPressed k ∨ op = .keyReleased k)

/-- 20_memory.md R66: the stack is not in memory. A store leaves every return address as it is, and no instruction but
CALL and RET can tell one stack from another: with another stack it does the same and leaves that stack as it is. -/
def Obligations.StackIsNotInMemory : Prop :=
  ∀ (i : Instr) (s t : State) (stack : Vector Word 16) (sp : Fin 17), (∀ nnn, i ≠ .call nnn) → i ≠ .ret →
    exec i s = .next t →
      t.stack = s.stack ∧ t.sp = s.sp ∧
      exec i { s with stack := stack, sp := sp } = .next { t with stack := stack, sp := sp }

/-- The font area is immutable (10_state.md R31): no host operation, a step among them, changes a byte of 0x000-0x04F.
That an attempted write faults is the spec's decision D12 (log 14). -/
def Obligations.FontAreaNeverChanges : Prop :=
  ∀ (op : HostOp) (s : State) (a : Nat), a < 0x050 → (op.apply s).readByte a = s.readByte a

/-- The quirks are fixed at load (10_state.md R39, 60_exceptions.md R248), and so is SHIFT_VF: no host operation, a
step among them, changes them. That they stand in State is the model's choice (logs 1, 2). -/
def Obligations.LaunchParametersNeverChange : Prop :=
  ∀ (op : HostOp) (s : State), (op.apply s).quirks = s.quirks ∧ (op.apply s).shiftVF = s.shiftVF

/-! ## The parameters of the step relation -/

/-- The step relation takes the quirks, SHIFT_VF and the oracle as parameters (10_state.md R43): under any parameters a
running core has exactly one next core state and a halted one has none, the interface's step is that relation on its
two halves, and the parameters of the next step are the same launch's. That the interface's State carries them beside
the core's state is the model's choice (logs 1 to 3). -/
def Obligations.StepRelationTakesItsParameters : Prop :=
  (∀ (p : StepParams) (c : CoreState), c.halt = none → ∃! c', Steps p c c') ∧
  (∀ (p : StepParams) (c c' : CoreState), c.halt ≠ none → ¬ Steps p c c') ∧
  (∀ s t : State, step s = .next t →
    Steps s.toStepParams s.toCoreState t.toCoreState ∧ t.quirks = s.quirks ∧ t.shiftVF = s.shiftVF)

/-- Only RND asks the oracle (43_alu.md R182, 10_state.md R43): what any other instruction does to the core's state is the
same at every answer of the oracle. The number of the answer is the model's own (log 3). -/
def Obligations.OnlyRndAsksTheOracle : Prop :=
  ∀ (i : Instr) (s t : State) (n : Nat), (∀ x nn, i ≠ .rnd x nn) → exec i s = .next t →
    t.draws = s.draws ∧ exec i { s with draws := n } = .next { t with draws := n }

/-- Each quirk changes its own instructions only, by the table of 10_state.md R39, and SHIFT_VF only SHR and SHL with
x = 15 (43_alu.md R180, R181; decision D17, log 2): with any other value every other instruction does the same. -/
def Obligations.QuirksChangeTheirInstructionsOnly : Prop :=
  ∀ (i : Instr) (s t : State) (q : Quirks) (sv : ShiftVF), exec i s = .next t →
    ((∃ x y, i = .or x y ∨ i = .and x y ∨ i = .xor x y) → q.vfReset = s.quirks.vfReset) →
    ((∃ x y, i = .shr x y ∨ i = .shl x y) → q.shifting = s.quirks.shifting) →
    ((∃ nnn, i = .jmpz nnn) → q.jumping = s.quirks.jumping) →
    ((∃ x y n, i = .draw x y n) → q.wrap = s.quirks.wrap) →
    ((∃ x, i = .sreg x ∨ i = .lreg x) → q.memory = s.quirks.memory) →
    ((∃ y, i = .shr 15 y ∨ i = .shl 15 y) → sv = s.shiftVF) →
      exec i { s with quirks := q, shiftVF := sv } = .next { t with quirks := q, shiftVF := sv }

/-! ## Invariants -/

/-- The state after reset meets the invariant. -/
def Obligations.ResetMeetsTheInvariant : Prop := State.reset.Inv

/-- Every step keeps the invariant: memory in canonical form, pc at most 0x10FE (10_state.md R25), return addresses at
most 0xFFE (42_control_flow.md R140), RELEASED only while WAITING (R36), an armed LDK fetched again (R225). -/
def Obligations.StepKeepsTheInvariant : Prop := ∀ s t : State, s.Inv → step s = .next t → t.Inv

/-- Every host operation, a step among them, keeps the invariant, in a halted core too (10_state.md R25, R36;
60_exceptions.md R250, R252, R253, R256; what a halted core ignores is decision D23, log 10). -/
def Obligations.HostOperationsKeepTheInvariant : Prop := ∀ (op : HostOp) (s : State), s.Inv → (op.apply s).Inv

/-- Every successful load whose INIT_MEM is in canonical form builds a state that meets the invariant
(70_reset_and_hazards.md R272). That INIT_MEM is such a memory is the model's choice (log 27). -/
def Obligations.LoadsMeetTheInvariant : Prop :=
  ∀ (rom : List Byte) (q : Quirks) (p : LaunchParams) (s : State), p.initMem.wf = true → load rom q p = .ok s → s.Inv

/-- Every state that any launch and any interleaving of host operations leads to meets the invariant (10_state.md R25,
R36; 60_exceptions.md R256). A launch's INIT_MEM is a memory in canonical form, the model's choice (log 27). -/
def Obligations.ReachableStatesMeetTheInvariant : Prop := ∀ t : State, t.reachable → t.Inv

/-- Memory has one form: two memories in canonical form that read alike at every address are equal data. -/
def Obligations.CanonicalMemoriesThatReadAlikeAreEqual : Prop :=
  ∀ m m' : Memory, m.wf = true → m'.wf = true → (∀ a, m.read a = m'.read a) → m = m'

/-! ## Register loads, arithmetic, shifts, random -/

/-- LDB, LD, LDFT: the destination takes the immediate, the other register, the delay timer (43_alu.md R171, R173,
45_timers_keypad.md R220); nothing else changes. LDDT and LDST: the timer takes the register (R221, R222) and nothing
else changes. -/
def Obligations.LoadsCopyAndChangeNothingElse : Prop :=
  ∀ (x y : Reg) (nn : Byte) (s : State),
    (∃ t, exec (.ldb x nn) s = .next t ∧ t.reg x = nn ∧ t.pc = s.pc ∧ onlyRegs s t (· = x)) ∧
    (∃ t, exec (.ld x y) s = .next t ∧ t.reg x = s.reg y ∧ t.pc = s.pc ∧ onlyRegs s t (· = x)) ∧
    (∃ t, exec (.ldft x) s = .next t ∧ t.reg x = s.dt ∧ t.pc = s.pc ∧ onlyRegs s t (· = x)) ∧
    (∃ t, exec (.lddt x) s = .next t ∧ t.dt = s.reg x ∧ t.st = s.st ∧ t.pc = s.pc ∧ t.i = s.i ∧
      (∀ j, t.reg j = s.reg j) ∧ sameAllMemory s t ∧ sameStack s t ∧ sameDisplay s t ∧ sameKeypad s t ∧
      sameControl s t) ∧
    (∃ t, exec (.ldst x) s = .next t ∧ t.st = s.reg x ∧ t.dt = s.dt ∧ t.pc = s.pc ∧ t.i = s.i ∧
      (∀ j, t.reg j = s.reg j) ∧ sameAllMemory s t ∧ sameStack s t ∧ sameDisplay s t ∧ sameKeypad s t ∧
      sameControl s t)

/-- 43_alu.md R170: sums and differences are unsigned and reduced modulo 2^8. ADD reports overflow through VF, SUB and
SUBR report no borrow, ADDB reports nothing. For ADD, SUB and SUBR with x = 15 see FlagStaysInVF. -/
def Obligations.ArithmeticIsUnsignedModulo256 : Prop :=
  ∀ (x y : Reg) (nn : Byte) (s : State),
    let p := (s.reg x).toNat
    let q := (s.reg y).toNat
    (∃ t, exec (.addb x nn) s = .next t ∧ (t.reg x).toNat = (p + nn.toNat) % 256 ∧ t.pc = s.pc ∧
      onlyRegs s t (· = x)) ∧
    (x ≠ 15 →
      (∃ t, exec (.add x y) s = .next t ∧ (t.reg x).toNat = (p + q) % 256 ∧
        t.reg 15 = (if p + q > 0xFF then 1 else 0) ∧ t.pc = s.pc ∧ onlyRegs s t fun j => j = x ∨ j = 15) ∧
      (∃ t, exec (.sub x y) s = .next t ∧ ((t.reg x).toNat : Int) = ((p : Int) - q) % 256 ∧
        t.reg 15 = (if p ≥ q then 1 else 0) ∧ t.pc = s.pc ∧ onlyRegs s t fun j => j = x ∨ j = 15) ∧
      (∃ t, exec (.subr x y) s = .next t ∧ ((t.reg x).toNat : Int) = ((q : Int) - p) % 256 ∧
        t.reg 15 = (if q ≥ p then 1 else 0) ∧ t.pc = s.pc ∧ onlyRegs s t fun j => j = x ∨ j = 15))

/-- With x = 15 the flag is written after the result and stays, computed from the operands read at the start: ADD, SUB,
SUBR (43_alu.md R183). The order is the spec's decision D16 (log 18). -/
def Obligations.FlagStaysInVF : Prop :=
  ∀ (y : Reg) (s : State),
    let p := (s.reg 15).toNat
    let q := (s.reg y).toNat
    (∃ t, exec (.add 15 y) s = .next t ∧ t.reg 15 = (if p + q > 0xFF then 1 else 0) ∧ t.pc = s.pc ∧
      onlyRegs s t (· = 15)) ∧
    (∃ t, exec (.sub 15 y) s = .next t ∧ t.reg 15 = (if p ≥ q then 1 else 0) ∧ t.pc = s.pc ∧
      onlyRegs s t (· = 15)) ∧
    (∃ t, exec (.subr 15 y) s = .next t ∧ t.reg 15 = (if q ≥ p then 1 else 0) ∧ t.pc = s.pc ∧
      onlyRegs s t (· = 15))

/-- OR, AND, XOR bit by bit; with `vf_reset` on VF ends as 0, also for x = 15; with it off only V[x] changes
(43_alu.md R174 to R176; the order for x = 15 is decision D16, log 18). -/
def Obligations.BitwiseOperationsAndVfReset : Prop :=
  ∀ (x y : Reg) (s : State),
    ∀ (i : Instr) (f : Bool → Bool → Bool),
      ((i = .or x y ∧ f = Bool.or) ∨ (i = .and x y ∧ f = Bool.and) ∨ (i = .xor x y ∧ f = Bool.xor)) →
      ∃ t, exec i s = .next t ∧ t.pc = s.pc ∧
        (s.quirks.vfReset = false ∨ x ≠ 15 →
          ∀ b < 8, (t.reg x).getLsbD b = f ((s.reg x).getLsbD b) ((s.reg y).getLsbD b)) ∧
        (s.quirks.vfReset = true → t.reg 15 = 0) ∧
        onlyRegs s t fun j => j = x ∨ (s.quirks.vfReset = true ∧ j = 15)

/-- SHR and SHL by one, of V[y] with `shifting` on and of V[x] with it off; VF takes the bit shifted out. With x = 15
VF takes what the open parameter SHIFT_VF says (43_alu.md R180, R181; decision D17, log 2): the statement holds for
each of its values. -/
def Obligations.ShiftsByOne : Prop :=
  ∀ (x y : Reg) (s : State),
    let v := shiftInput s x y
    (∃ t, exec (.shr x y) s = .next t ∧ t.pc = s.pc ∧ onlyRegs s t (fun j => j = x ∨ j = 15) ∧
      (x ≠ 15 → (t.reg x).toNat = v / 2 ∧ (t.reg 15).toNat = v % 2) ∧
      (x = 15 → (t.reg 15).toNat =
        match s.shiftVF with
        | .flagLast => v % 2
        | .resultLast => v / 2
        | .inPlace => 0)) ∧
    (∃ t, exec (.shl x y) s = .next t ∧ t.pc = s.pc ∧ onlyRegs s t (fun j => j = x ∨ j = 15) ∧
      (x ≠ 15 → (t.reg x).toNat = v * 2 % 256 ∧ (t.reg 15).toNat = v / 128) ∧
      (x = 15 → (t.reg 15).toNat =
        match s.shiftVF with
        | .flagLast => v / 128
        | .resultLast => v * 2 % 256
        | .inPlace => v / 128 * 2))

/-- RND: V[x] is the next free draw AND nn, and the next RND meets another draw (43_alu.md R182; decision D20, log 3).
Nothing is known of the draw, so the statement holds for every one; the bits nn masks are 0 whatever it is. -/
def Obligations.RandomByteIsMasked : Prop :=
  ∀ (x : Reg) (nn : Byte) (s : State),
    ∃ t, exec (.rnd x nn) s = .next t ∧ t.reg x = Config.freeByte s.draws &&& nn ∧
      (∀ b, nn.getLsbD b = false → (t.reg x).getLsbD b = false) ∧ (nn = 0 → t.reg x = 0) ∧
      t.draws = s.draws + 1 ∧ t.pc = s.pc ∧ t.i = s.i ∧ sameRegs s t (· = x) ∧ sameAllMemory s t ∧
      sameDevices s t ∧ t.halt = s.halt ∧ t.quirks = s.quirks ∧ t.shiftVF = s.shiftVF

/-! ## Display -/

/-- 41_display.md R124: CLS sets every pixel false and DIRTY true; nothing else changes. -/
def Obligations.ClsClearsTheScreen : Prop :=
  ∀ s : State, ∃ t, exec .cls s = .next t ∧ (∀ p, t.pixel p = false) ∧ t.dirty = true ∧ t.pc = s.pc ∧ t.i = s.i ∧
    (∀ j, t.reg j = s.reg j) ∧ sameAllMemory s t ∧ sameStack s t ∧ sameTimers s t ∧ sameKeypad s t ∧ sameControl s t

/-- DRAW in bounds: each pixel under a set sprite bit is toggled and no other; VF is 1 exactly when one of them was
set, else 0; DIRTY is set exactly when the sprite touches a pixel, else as before; nothing else changes
(41_display.md R120 to R123, R125, R129). The bit order is decision D14 (log 16), DIRTY's rule D15 (log 17). -/
def Obligations.DrawTogglesTheSpritePixels : Prop :=
  ∀ (x y : Reg) (n : Fin 16) (s : State), s.i.toNat + n.val ≤ 4096 →
    ∃ t, exec (.draw x y n) s = .next t ∧
      (∀ c r, spriteCovers s x y n.val c r → t.pixel (c, r) = !s.pixel (c, r)) ∧
      (∀ c r, ¬ spriteCovers s x y n.val c r → t.pixel (c, r) = s.pixel (c, r)) ∧
      ((∃ c r, spriteCovers s x y n.val c r ∧ s.pixel (c, r) = true) → t.reg 15 = 1) ∧
      ((¬ ∃ c r, spriteCovers s x y n.val c r ∧ s.pixel (c, r) = true) → t.reg 15 = 0) ∧
      ((∃ c r, spriteCovers s x y n.val c r) → t.dirty = true) ∧
      ((¬ ∃ c r, spriteCovers s x y n.val c r) → t.dirty = s.dirty) ∧
      t.pc = s.pc ∧ t.i = s.i ∧ sameRegs s t (· = 15) ∧ sameAllMemory s t ∧ sameStack s t ∧ sameTimers s t ∧
      sameKeypad s t ∧ sameControl s t

/-- Drawing the same sprite twice at the same place (x and y other than 15, whose value DRAW overwrites) restores every
pixel, and the second draw's VF is 1 exactly when the sprite covers a pixel that was clear before the first, which that
draw set and the second turns off; else it is 0 (41_display.md R121, R129, corner cases; 90_conflicts.md C9, whose case is
the clear screen). -/
def Obligations.DrawingTwiceRestoresTheScreen : Prop :=
  ∀ (x y : Reg) (n : Fin 16) (s t u : State), s.i.toNat + n.val ≤ 4096 → x ≠ 15 → y ≠ 15 →
    exec (.draw x y n) s = .next t → exec (.draw x y n) t = .next u →
      (∀ p, u.pixel p = s.pixel p) ∧
      (u.reg 15 = 1 ∨ u.reg 15 = 0) ∧
      (u.reg 15 = 1 ↔ ∃ c r, spriteCovers s x y n.val c r ∧ s.pixel (c, r) = false)

/-! ## Control flow -/

/-- JMP sets pc to nnn; JMPZ to the exact sum of nnn and V0, or V[nnn[11:8]] with `jumping` on; nothing else changes
(42_control_flow.md R141, R147; that the sum is not masked to 12 bits is decision D4, log 12). -/
def Obligations.JumpsSetPc : Prop :=
  ∀ (nnn : Addr12) (s : State),
    (∃ t, exec (.jmp nnn) s = .next t ∧ t.pc.toNat = nnn.toNat ∧ onlyPc s t) ∧
    (∃ t, exec (.jmpz nnn) s = .next t ∧ onlyPc s t ∧
      t.pc.toNat = nnn.toNat +
        (s.reg (if s.quirks.jumping then Fin.ofNat 16 (nnn.toNat / 256) else 0)).toNat)

/-- CALL with a free entry: STACK[SP] takes a, the address of the CALL, SP grows by 1, pc becomes nnn; nothing else
changes (42_control_flow.md R142, 10_state.md R27). -/
def Obligations.CallPushesItsAddress : Prop :=
  ∀ (nnn : Addr12) (s : State), s.sp.val < 16 →
    ∃ t, exec (.call nnn) s = .next t ∧ t.pc.toNat = nnn.toNat ∧ t.sp.val = s.sp.val + 1 ∧
      t.stackEntry s.sp.val = s.pc - 2 ∧ (∀ j, j ≠ s.sp.val → t.stackEntry j = s.stackEntry j) ∧
      (∀ j, t.reg j = s.reg j) ∧ t.i = s.i ∧ sameAllMemory s t ∧ sameTimers s t ∧ sameDisplay s t ∧
      sameKeypad s t ∧ sameControl s t

/-- RET with an entry in use: SP shrinks by 1 and pc becomes the popped entry plus 2; nothing else changes
(42_control_flow.md R140, 10_state.md R27). -/
def Obligations.RetReturnsPastTheCall : Prop :=
  ∀ s : State, 0 < s.sp.val →
    ∃ t, exec .ret s = .next t ∧ t.sp.val = s.sp.val - 1 ∧ t.pc = s.stackEntry (s.sp.val - 1) + 2 ∧
      (∀ j, t.stackEntry j = s.stackEntry j) ∧ (∀ j, t.reg j = s.reg j) ∧ t.i = s.i ∧ sameAllMemory s t ∧
      sameTimers s t ∧ sameDisplay s t ∧ sameKeypad s t ∧ sameControl s t

/-- The pairing of CALL and RET (90_conflicts.md C8): wherever the subroutine's RET executes, with the stack the CALL
left, pc is again that of the instruction after the CALL and the stack is as it was before, entry by entry in use. -/
def Obligations.RetAfterCallResumesAfterIt : Prop :=
  ∀ (nnn : Addr12) (s t : State) (pc : Word), s.sp.val < 16 → exec (.call nnn) s = .next t →
    ∃ u, exec .ret { t with pc := pc } = .next u ∧ u.pc = s.pc ∧ u.sp = s.sp ∧
      ∀ j, j < s.sp.val → u.stackEntry j = s.stackEntry j

/-- SKEB, SKNEB, SKE, SKNE skip exactly when their comparison holds, adding 2 to pc, and change nothing else
(42_control_flow.md R143 to R146, 40_step.md R107). -/
def Obligations.SkipsFollowTheirComparison : Prop :=
  ∀ (x y : Reg) (nn : Byte) (s : State),
    (∃ t, exec (.skeb x nn) s = .next t ∧ t.pc = (if s.reg x = nn then s.pc + 2 else s.pc) ∧ onlyPc s t) ∧
    (∃ t, exec (.skneb x nn) s = .next t ∧ t.pc = (if s.reg x = nn then s.pc else s.pc + 2) ∧ onlyPc s t) ∧
    (∃ t, exec (.ske x y) s = .next t ∧ t.pc = (if s.reg x = s.reg y then s.pc + 2 else s.pc) ∧ onlyPc s t) ∧
    (∃ t, exec (.skne x y) s = .next t ∧ t.pc = (if s.reg x = s.reg y then s.pc else s.pc + 2) ∧ onlyPc s t)

/-- A jump to itself is a fixed point that every later step keeps (70_reset_and_hazards.md R278). -/
def Obligations.SelfJumpIsAFixedPoint : Prop :=
  ∀ (s : State) (nnn : Addr12), s.halt = none → s.canFetch = true → s.fetchInstr = .jmp nnn →
    nnn.toNat = s.pc.toNat → step s = .next s

/-! ## Keypad -/

/-- With V[x] at most 15, SKP skips exactly when key V[x] is pressed and SKNP exactly when it is not; nothing else changes
(45_timers_keypad.md R223, R224, R228). -/
def Obligations.KeySkipsFollowTheKey : Prop :=
  ∀ (x : Reg) (s : State), (s.reg x).toNat ≤ 15 →
    (∃ t, exec (.skp x) s = .next t ∧ onlyPc s t ∧
      t.pc = if s.keyDown (s.reg x).toNat = true then s.pc + 2 else s.pc) ∧
    (∃ t, exec (.sknp x) s = .next t ∧ onlyPc s t ∧
      t.pc = if s.keyDown (s.reg x).toNat = true then s.pc else s.pc + 2)

/-- LDK as the two-state machine of 45_timers_keypad.md R225 and R227: Idle arms and rewinds; Armed with a release
captured takes the key, disarms and goes on; Armed without one rewinds. Nothing else changes. -/
def Obligations.LdkArmsWaitsAndCaptures : Prop :=
  ∀ (x : Reg) (s : State), ∃ t, exec (.ldk x) s = .next t ∧
    t.i = s.i ∧ sameAllMemory s t ∧ sameStack s t ∧ sameTimers s t ∧ sameDisplay s t ∧ sameControl s t ∧
    (∀ k, t.keyDown k = s.keyDown k) ∧
    (s.waiting = false → t.waiting = true ∧ t.released = s.released ∧ t.pc = s.pc - 2 ∧ sameRegs s t fun _ => False) ∧
    (s.waiting = true → s.released = none →
      t.waiting = true ∧ t.released = none ∧ t.pc = s.pc - 2 ∧ sameRegs s t fun _ => False) ∧
    (∀ k : Key, s.waiting = true → s.released = some k →
      t.waiting = false ∧ t.released = none ∧ t.pc = s.pc ∧ (t.reg x).toNat = k.val ∧ sameRegs s t (· = x))

/-- Without a release an armed LDK waits for ever (70_reset_and_hazards.md R275): after any host operations that hold
no keyReleased, the core is still armed at the same pc with the same registers, memory, I and stack. -/
def Obligations.UnreleasedLdkWaitsForEver : Prop :=
  ∀ (ops : List HostOp) (s : State), s.Inv → s.waiting = true → s.released = none →
    (∀ k, HostOp.keyReleased k ∉ ops) →
      (s.runOps ops).waiting = true ∧ (s.runOps ops).released = none ∧ (s.runOps ops).pc = s.pc ∧
      (∀ j, (s.runOps ops).reg j = s.reg j) ∧ (s.runOps ops).i = s.i ∧ sameAllMemory s (s.runOps ops) ∧
      sameStack s (s.runOps ops)

/-- A release completes an armed LDK: after keyReleased(k) the next step writes k to the LDK's register, disarms the
wait and goes on at a + 2 (45_timers_keypad.md R227). That a press is not needed is the spec's decision D18 (log 19). -/
def Obligations.ReleaseCompletesAnArmedLdk : Prop :=
  ∀ (s : State) (x : Reg) (k : Nat), s.halt = none → s.canFetch = true → s.fetchInstr = .ldk x → s.waiting = true →
    s.released = none → k < 16 →
      ∃ t, step (s.keyReleased k) = .next t ∧ (t.reg x).toNat = k ∧ t.waiting = false ∧ t.released = none ∧
        t.pc = s.pc + 2 ∧ t.keyDown k = false ∧ sameRegs s t (· = x)

/-! ## Index register and memory -/

/-- LDI sets I to nnn; ADDI adds V[x] exactly while the sum fits 16 bits; FONT sets I to 5 * V[x] for a digit up to 15;
nothing else changes (44_index_memory.md R201 to R203). ADDI's fault is decision D5 (log 13), the glyph's place D11
(log 5). -/
def Obligations.IndexInstructionsSetI : Prop :=
  ∀ (x : Reg) (nnn : Addr12) (s : State),
    (∃ t, exec (.ldi nnn) s = .next t ∧ t.i.toNat = nnn.toNat ∧ t.pc = s.pc ∧ onlyIndex s t) ∧
    (s.i.toNat + (s.reg x).toNat ≤ 0xFFFF →
      ∃ t, exec (.addi x) s = .next t ∧ t.i.toNat = s.i.toNat + (s.reg x).toNat ∧ t.pc = s.pc ∧ onlyIndex s t) ∧
    ((s.reg x).toNat ≤ 15 →
      ∃ t, exec (.font x) s = .next t ∧ t.i.toNat = 5 * (s.reg x).toNat ∧ t.pc = s.pc ∧ onlyIndex s t)

/-- BCD in bounds and outside the font: three bytes at I are the decimal digits of V[x], hundreds first, and no other
byte and nothing else changes (44_index_memory.md R204, R200). The up-front check is decision D13 (log 15). -/
def Obligations.BcdStoresTheDecimalDigits : Prop :=
  ∀ (x : Reg) (s : State), s.i.toNat + 3 ≤ 4096 → 0x050 ≤ s.i.toNat →
    ∃ t, exec (.bcd x) s = .next t ∧
      (let d := fun k => (t.readByte (s.i.toNat + k)).toNat
       100 * d 0 + 10 * d 1 + d 2 = (s.reg x).toNat ∧ d 0 ≤ 2 ∧ d 1 ≤ 9 ∧ d 2 ≤ 9) ∧
      sameMemory s t (fun a => s.i.toNat ≤ a ∧ a < s.i.toNat + 3) ∧
      (∀ j, t.reg j = s.reg j) ∧ t.i = s.i ∧ t.pc = s.pc ∧ sameDevices s t ∧ sameControl s t

/-- SREG in bounds and outside the font: V0 to V[x] stand at I to I + x, no other byte changes, I grows by x + 1 exactly
when the quirk `memory` is on, and nothing else changes (44_index_memory.md R205, R207). The up-front check is decision
D13 (log 15). -/
def Obligations.SregStoresTheRegisters : Prop :=
  ∀ (x : Reg) (s : State), s.i.toNat + (x.val + 1) ≤ 4096 → 0x050 ≤ s.i.toNat →
    ∃ t, exec (.sreg x) s = .next t ∧
      (∀ j : Reg, j ≤ x → t.readByte (s.i.toNat + j.val) = s.reg j) ∧
      sameMemory s t (fun a => s.i.toNat ≤ a ∧ a < s.i.toNat + (x.val + 1)) ∧
      t.i.toNat = s.i.toNat + (if s.quirks.memory then x.val + 1 else 0) ∧
      (∀ j, t.reg j = s.reg j) ∧ t.pc = s.pc ∧ sameDevices s t ∧ sameControl s t

/-- LREG in bounds: V0 to V[x] take the bytes at I to I + x, the registers above stay, I grows by x + 1 exactly when the
quirk `memory` is on, and nothing else changes (44_index_memory.md R206, R207). The up-front check is decision D13
(log 15). -/
def Obligations.LregLoadsTheRegisters : Prop :=
  ∀ (x : Reg) (s : State), s.i.toNat + (x.val + 1) ≤ 4096 →
    ∃ t, exec (.lreg x) s = .next t ∧
      (∀ j : Reg, j ≤ x → t.reg j = s.readByte (s.i.toNat + j.val)) ∧ sameRegs s t (· ≤ x) ∧
      t.i.toNat = s.i.toNat + (if s.quirks.memory then x.val + 1 else 0) ∧
      sameAllMemory s t ∧ t.pc = s.pc ∧ sameDevices s t ∧ sameControl s t

/-- What SREG stored LREG loads back: from any later state whose memory and quirks are those SREG left and whose I is
where SREG began, LREG of the same x gives V0 to V[x] their old values (44_index_memory.md R205, R206). -/
def Obligations.LregLoadsWhatSregStored : Prop :=
  ∀ (x : Reg) (s t u : State), s.i.toNat + (x.val + 1) ≤ 4096 → 0x050 ≤ s.i.toNat → exec (.sreg x) s = .next t →
    u.mem = t.mem → u.i = s.i →
      ∃ w, exec (.lreg x) u = .next w ∧ ∀ j : Reg, j ≤ x → w.reg j = s.reg j

/-! ## The host's ports -/

/-- `tick` counts each timer down by 1 to 0 and changes nothing else; in a halted core it changes nothing
(60_exceptions.md R250). That both count in one tick is the spec's decision D21 (log 20). -/
def Obligations.TickCountsBothTimersDown : Prop :=
  (∀ s : State, s.halt = none →
    s.tick.dt.toNat = s.dt.toNat - 1 ∧ s.tick.st.toNat = s.st.toNat - 1 ∧
    s.tick = { s with dt := s.tick.dt, st := s.tick.st }) ∧
  (∀ (s : State) (k : FaultKind), s.halt = some k → s.tick = s)

/-- keyPressed sets its key, keyReleased clears it and, while LDK is armed, records the release: the first one surely,
of a later one either it or the one held (60_exceptions.md R252, R253; decisions D18, D19, logs 4, 19). An index above
15 halts the core with HostKeyIndex and changes nothing else; a halted core ignores both. -/
def Obligations.KeyEventsUpdateTheKeypad : Prop :=
  ∀ (s : State) (k : Nat),
    (s.halt = none → 15 < k →
      s.keyPressed k = { s with halt := some .hostKeyIndex } ∧
      s.keyReleased k = { s with halt := some .hostKeyIndex }) ∧
    (∀ f, s.halt = some f → s.keyPressed k = s ∧ s.keyReleased k = s) ∧
    (s.halt = none → ∀ h : k < 16,
      (∀ j, (s.keyPressed k).keyDown j = if j = k then true else s.keyDown j) ∧
      s.keyPressed k = { s with key := (s.keyPressed k).key } ∧
      (∀ j, (s.keyReleased k).keyDown j = if j = k then false else s.keyDown j) ∧
      (let r := s.keyReleased k
       r = { s with key := r.key, released := r.released, draws := r.draws }) ∧
      (s.waiting = false → (s.keyReleased k).released = s.released) ∧
      (s.waiting = true → s.released = none → (s.keyReleased k).released = some ⟨k, h⟩) ∧
      (∀ held, s.waiting = true → s.released = some held →
        (s.keyReleased k).released = some held ∨ (s.keyReleased k).released = some ⟨k, h⟩))

/-- The host reads every pixel and DIRTY and may clear DIRTY (41_display.md R126); that it may in a halted core too is the
model's inference (log 28, DEDUCED). No host operation but a step writes FB, memory, the registers, I, pc or the stack
(60_exceptions.md R254), and none but a step and a tick writes the timers (R250). -/
def Obligations.HostOnlyClearsDirty : Prop :=
  (∀ s : State, s.clearDirty.dirty = false ∧ s.clearDirty = { s with dirty := s.clearDirty.dirty } ∧
    s.dirtyFlag = s.dirty ∧ ∀ (c : Fin 64) (r : Fin 32), s.pixel (c, r) = s.fb[c][r]) ∧
  (∀ (op : HostOp) (s : State), op ≠ .step →
    (op.apply s).fb = s.fb ∧ (op.apply s).mem = s.mem ∧ (op.apply s).v = s.v ∧ (op.apply s).i = s.i ∧
    (op.apply s).pc = s.pc ∧ (op.apply s).stack = s.stack ∧ (op.apply s).sp = s.sp ∧
    (op ≠ .tick → (op.apply s).dt = s.dt ∧ (op.apply s).st = s.st) ∧
    (op ≠ .clearDirty → (op.apply s).dirty = s.dirty))

/-- `load` fails, with RomTooLarge, exactly for a ROM longer than 3583 bytes (70_reset_and_hazards.md R271; the strict
limit is decision D1, log 22). -/
def Obligations.LoadRefusesExactlyLargeRoms : Prop :=
  ∀ (rom : List Byte) (q : Quirks) (p : LaunchParams),
    (3583 < rom.length → load rom q p = .error .romTooLarge) ∧
    (rom.length ≤ 3583 → ∃ s, load rom q p = .ok s)

/-- The state after a load with any launch parameters (10_state.md R42, R33; 70_reset_and_hazards.md R272), part by part:
the ROM at 0x200, FONT at 0x000, INIT_MEM elsewhere, the registers, I and the timers those of RESET_V, RESET_I and
RESET_TIMERS, pc = 0x200, everything else clear, the quirks and SHIFT_VF those given. The parameters' form is the model's
choice (log 27), the clear parts are the spec's decisions D6, D9, D10 (logs 8, 9). The parameters' defaults are the zeros
of decisions D7 and D8 and the font of D11 (logs 5 to 7); with them an empty ROM gives State.reset. -/
def Obligations.LoadBuildsTheResetState : Prop :=
  (∀ (rom : List Byte) (q : Quirks) (p : LaunchParams) (s : State), load rom q p = .ok s →
    (∀ j, j < rom.length → s.readByte (0x200 + j) = rom.getD j 0) ∧
    (∀ (a : Nat) (h : a < 80), s.readByte a = p.font[a]) ∧
    (∀ a, 0x050 ≤ a → (a < 0x200 ∨ 0x200 + rom.length ≤ a) → s.readByte a = p.initMem.read a) ∧
    (p.initMem.wf = true → s.mem.wf = true) ∧
    s.pc = 0x200 ∧ (∀ x : Reg, s.reg x = p.resetV[x]) ∧ s.i = p.resetI ∧ s.dt = p.resetDT ∧ s.st = p.resetST ∧
    s.sp = 0 ∧ (∀ j, s.stackEntry j = 0) ∧ (∀ p, s.pixel p = false) ∧ s.dirty = false ∧
    (∀ k, s.keyDown k = false) ∧ s.waiting = false ∧ s.released = none ∧ s.halt = none ∧
    s.quirks = q ∧ s.shiftVF = p.shiftVF) ∧
  (let p : LaunchParams := {}
   p.font.toList = fontTable ∧ (∀ x : Reg, p.resetV[x] = 0) ∧ p.resetI = 0 ∧ p.resetDT = 0 ∧ p.resetST = 0 ∧
   ∀ a, 0x050 ≤ a → p.initMem.read a = 0) ∧
  load [] State.reset.quirks = .ok State.reset

/-- `toColorModel` emits for each pixel, row by row from (0,0), the pattern of a set or an unset pixel
(41_display.md R127; the order is decision D27, log 21): for patterns of one length L the bytes of pixel (c, r) are those
from (64 * r + c) * L, and 64 * 32 * L bytes come in all. -/
def Obligations.ColorModelIsRowMajor : Prop :=
  ∀ (s : State) (fg bg : List Byte), fg.length = bg.length →
    (s.toColorModel fg bg).length = 64 * 32 * fg.length ∧
    ∀ (c : Fin 64) (r : Fin 32) (k : Nat), k < fg.length →
      (s.toColorModel fg bg)[(64 * r.val + c.val) * fg.length + k]? =
        (if s.pixel (c, r) = true then fg else bg)[k]?
end

