-- ==== Sys2Proof/Laws/Decode.lean ====
section
/-! SUPPORT. The fields of an opcode: as numbers, of an encoded word, and of a word that matches a row of the map. -/

namespace Sys2Proof

/-! ## The fields as numbers -/

theorem toNat_groupField (w : Word) : (groupField w).toNat = w.toNat / 4096 := by
  simp [groupField, Nat.shiftRight_eq_div_pow]; omega

theorem val_xField (w : Word) : (xField w).val = w.toNat / 256 % 16 := by
  simp [xField, Nat.shiftRight_eq_div_pow]

theorem val_yField (w : Word) : (yField w).val = w.toNat / 16 % 16 := by
  simp [yField, Nat.shiftRight_eq_div_pow]

theorem val_nField (w : Word) : (nField w).val = w.toNat % 16 := by simp [nField]

theorem toNat_nibbleField (w : Word) : (nibbleField w).toNat = w.toNat % 16 := by simp [nibbleField]

theorem toNat_nnField (w : Word) : (nnField w).toNat = w.toNat % 256 := by simp [nnField]

theorem toNat_nnnField (w : Word) : (nnnField w).toNat = w.toNat % 4096 := by simp [nnnField]

/-! ## Encoded words as numbers, and their fields -/

/-- Two fields side by side, as a number. -/
theorem toNat_append_eq {k m : Nat} (a : BitVec k) (b : BitVec m) : (a ++ b).toNat = a.toNat * 2 ^ m + b.toNat := by
  rw [BitVec.toNat_append, ← Nat.shiftLeft_add_eq_or_of_lt b.isLt, Nat.shiftLeft_eq]

section
variable (g n : BitVec 4) (x y : Reg) (nn : Byte) (nnn : Addr12)

theorem toNat_encodeAddr : (encodeAddr g nnn).toNat = g.toNat * 4096 + nnn.toNat := toNat_append_eq g nnn

theorem toNat_encodeRegByte : (encodeRegByte g x nn).toNat = g.toNat * 4096 + x.val * 256 + nn.toNat := by
  have h1 : (encodeRegByte g x nn).toNat = (g ++ fieldBits x).toNat * 256 + nn.toNat := toNat_append_eq _ nn
  have h2 : (g ++ fieldBits x).toNat = g.toNat * 16 + x.val := toNat_append_eq g _
  rw [h1, h2]; ring

theorem toNat_encodeRegReg :
    (encodeRegReg g x y n).toNat = g.toNat * 4096 + x.val * 256 + y.val * 16 + n.toNat := by
  have h1 : (encodeRegReg g x y n).toNat = (g ++ fieldBits x ++ fieldBits y).toNat * 16 + n.toNat :=
    toNat_append_eq _ n
  have h2 : (g ++ fieldBits x ++ fieldBits y).toNat = (g ++ fieldBits x).toNat * 16 + y.val := toNat_append_eq _ _
  have h3 : (g ++ fieldBits x).toNat = g.toNat * 16 + x.val := toNat_append_eq g _
  rw [h1, h2, h3]; ring

@[simp] theorem groupField_encodeAddr : groupField (encodeAddr g nnn) = g := by
  apply BitVec.eq_of_toNat_eq; rw [toNat_groupField, toNat_encodeAddr]; omega

@[simp] theorem nnnField_encodeAddr : nnnField (encodeAddr g nnn) = nnn := by
  apply BitVec.eq_of_toNat_eq; rw [toNat_nnnField, toNat_encodeAddr]; omega

@[simp] theorem groupField_encodeRegByte : groupField (encodeRegByte g x nn) = g := by
  apply BitVec.eq_of_toNat_eq; rw [toNat_groupField, toNat_encodeRegByte]; omega

@[simp] theorem xField_encodeRegByte : xField (encodeRegByte g x nn) = x := by
  apply Fin.ext; rw [val_xField, toNat_encodeRegByte]; omega

@[simp] theorem nnField_encodeRegByte : nnField (encodeRegByte g x nn) = nn := by
  apply BitVec.eq_of_toNat_eq; rw [toNat_nnField, toNat_encodeRegByte]; omega

@[simp] theorem groupField_encodeRegReg : groupField (encodeRegReg g x y n) = g := by
  apply BitVec.eq_of_toNat_eq; rw [toNat_groupField, toNat_encodeRegReg]; omega

@[simp] theorem xField_encodeRegReg : xField (encodeRegReg g x y n) = x := by
  apply Fin.ext; rw [val_xField, toNat_encodeRegReg]; omega

@[simp] theorem yField_encodeRegReg : yField (encodeRegReg g x y n) = y := by
  apply Fin.ext; rw [val_yField, toNat_encodeRegReg]; omega

@[simp] theorem nibbleField_encodeRegReg : nibbleField (encodeRegReg g x y n) = n := by
  apply BitVec.eq_of_toNat_eq; rw [toNat_nibbleField, toNat_encodeRegReg]; omega

@[simp] theorem nField_encodeRegReg : nField (encodeRegReg g x y n) = n.toFin := by
  apply Fin.ext; rw [val_nField, toNat_encodeRegReg]; have := n.isLt; simp only [BitVec.val_toFin]; omega

end

/-! ## The fields of a word that matches a row -/

section
variable {w m v : Word}

/-- The row compares the whole group field. -/
theorem groupField_of_mask (h : w &&& m = v) (hm : m.extractLsb' 12 4 = 0xF#4) :
    groupField w = v.extractLsb' 12 4 := by
  rw [← h, BitVec.extractLsb'_and, hm]; exact BitVec.and_allOnes.symm

/-- The row compares the whole low nibble. -/
theorem nibbleField_of_mask (h : w &&& m = v) (hm : m.extractLsb' 0 4 = 0xF#4) :
    nibbleField w = v.extractLsb' 0 4 := by
  rw [← h, BitVec.extractLsb'_and, hm]; exact BitVec.and_allOnes.symm

/-- The row compares the whole low byte. -/
theorem nnField_of_mask (h : w &&& m = v) (hm : m.extractLsb' 0 8 = 0xFF#8) :
    nnField w = v.extractLsb' 0 8 := by
  rw [← h, BitVec.extractLsb'_and, hm]; exact BitVec.and_allOnes.symm

end

/-! ## The masks of the map as fields -/

theorem and_group (w : Word) : w &&& 0xF000#16 = (groupField w).setWidth 16 <<< 12 := by
  ext i hi
  interval_cases i <;> simp [groupField, BitVec.getElem_setWidth]

theorem and_group_low (w : Word) :
    w &&& 0xF0FF#16 = ((groupField w).setWidth 16 <<< 12) ||| (nnField w).setWidth 16 := by
  ext i hi
  interval_cases i <;> simp [groupField, nnField, BitVec.getElem_setWidth]

theorem and_group_nibble (w : Word) :
    w &&& 0xF00F#16 = ((groupField w).setWidth 16 <<< 12) ||| (nibbleField w).setWidth 16 := by
  ext i hi
  interval_cases i <;> simp [groupField, nibbleField, BitVec.getElem_setWidth]

/-! ## Bytes -/

/-- The word two bytes spell, as a number. -/
theorem toNat_wordOfBytes (hi lo : Byte) : (wordOfBytes hi lo).toNat = hi.toNat * 256 + lo.toNat :=
  toNat_append_eq hi lo

/-- The two bytes of a word spell it again. -/
theorem wordOfBytes_bytesOfWord (w : Word) :
    wordOfBytes (w.extractLsb' 8 8) (w.extractLsb' 0 8) = w := by
  apply BitVec.eq_of_toNat_eq
  rw [toNat_wordOfBytes]
  simp [Nat.shiftRight_eq_div_pow]
  omega

end Sys2Proof
end

