-- ==== Sys2Proof/Laws/Display.lean ====
section
/-! SUPPORT. The framebuffer: one pixel after one toggle, the pixels of a sprite, and what compositing does to each
pixel. -/

namespace Sys2Proof.Machine

@[simp] theorem Screen.get_blank (p : Pixel) : Screen.get blankScreen p = false := by
  simp [Screen.get, blankScreen]

/-- A toggle flips its own pixel and no other. -/
theorem Screen.get_toggle (fb : Screen) (p q : Pixel) :
    (fb.toggle p).get q = (fb.get q ^^ decide (p = q)) := by
  obtain ⟨⟨c, hc⟩, ⟨r, hr⟩⟩ := p
  obtain ⟨⟨c', hc'⟩, ⟨r', hr'⟩⟩ := q
  simp only [Screen.get, Screen.toggle, Vector.getElem_set, Prod.mk.injEq, Fin.mk.injEq]
  by_cases h1 : c = c'
  · subst h1
    by_cases h2 : r = r' <;> simp [h2]
  · simp [h1]

/-! ## Which pixels a sprite names -/

/-- The pixels of one row. -/
theorem mem_rowPixels (wrap : Bool) (c0 r : Nat) (bits : Byte) (p : Pixel) :
    p ∈ rowPixels wrap c0 r bits ↔ ∃ b < 8, bits.getLsbD (7 - b) = true ∧ pixelAt wrap (c0 + b) r = some p := by
  simp [rowPixels, List.mem_filterMap, Option.ite_none_right_eq_some]

/-- The pixels of a sprite: bit 7 - b of row j is at column c0 + b and row r0 + j. -/
theorem mem_spritePixels (wrap : Bool) (c0 r0 : Nat) (rows : List Byte) (p : Pixel) :
    p ∈ spritePixels wrap c0 r0 rows ↔
      ∃ j < rows.length, ∃ b < 8, (rows.getD j 0).getLsbD (7 - b) = true ∧
        pixelAt wrap (c0 + b) (r0 + j) = some p := by
  induction rows generalizing r0 with
  | nil => simp [spritePixels]
  | cons bits rows ih =>
    simp only [spritePixels, List.mem_append, ih, mem_rowPixels, List.length_cons]
    constructor
    · rintro (⟨b, hb, h⟩ | ⟨j, hj, b, hb, h⟩)
      · exact ⟨0, by omega, b, hb, by simpa using h⟩
      · exact ⟨j + 1, by omega, b, hb, by simpa [Nat.add_assoc, Nat.add_comm 1] using h⟩
    · rintro ⟨j, hj, b, hb, h⟩
      cases j with
      | zero => exact .inl ⟨b, hb, by simpa using h⟩
      | succ j => exact .inr ⟨j, by omega, b, hb, by simpa [Nat.add_assoc, Nat.add_comm 1] using h⟩

/-- A pixel's place determines where in the sprite it came from: the sprite is narrower and lower than the display. -/
theorem pixelAt_inj {wrap : Bool} {c c' r r' : Nat} {p : Pixel} (h : pixelAt wrap c r = some p)
    (h' : pixelAt wrap c' r' = some p) (hc : c < c' + 64) (hc' : c' < c + 64) (hr : r < r' + 32)
    (hr' : r' < r + 32) : c = c' ∧ r = r' := by
  unfold pixelAt at h h'
  split at h
  · simp_all only [if_true, Option.some.injEq]
    obtain rfl := h
    simp only [Prod.mk.injEq, Fin.ext_iff, Fin.val_ofNat] at h'
    omega
  · simp_all only [Bool.false_eq_true, if_false]
    split at h <;> split at h' <;> simp_all only [reduceCtorEq, Option.some.injEq]
    obtain rfl := h
    simp only [Prod.mk.injEq, Fin.ext_iff] at h'
    omega

theorem nodup_rowPixels (wrap : Bool) (c0 r : Nat) (bits : Byte) : (rowPixels wrap c0 r bits).Nodup := by
  unfold rowPixels
  rw [List.nodup_iff_pairwise_ne, List.pairwise_filterMap]
  refine List.Pairwise.imp_of_mem ?_ (List.nodup_range (n := 8))
  intro a b ha hb hab p hp q hq hpq
  simp only [List.mem_range] at ha hb
  simp only [Option.ite_none_right_eq_some] at hp hq
  subst hpq
  have := pixelAt_inj hp.2 hq.2 (by omega) (by omega) (by omega) (by omega)
  omega

/-- No pixel is visited twice in one call (R120). -/
theorem nodup_spritePixels (wrap : Bool) (c0 r0 : Nat) (rows : List Byte) (h : rows.length ≤ 16) :
    (spritePixels wrap c0 r0 rows).Nodup := by
  induction rows generalizing r0 with
  | nil => simp [spritePixels]
  | cons bits rows ih =>
    simp only [List.length_cons] at h
    refine List.nodup_append'.2 ⟨nodup_rowPixels .., ih _ (by omega), ?_⟩
    intro p hp hq
    obtain ⟨b, hb, -, hp⟩ := (mem_rowPixels ..).1 hp
    obtain ⟨j, hj, b', hb', -, hq⟩ := (mem_spritePixels ..).1 hq
    have := pixelAt_inj hp hq (by omega) (by omega) (by omega) (by omega)
    omega

/-! ## What compositing does -/

/-- Toggling a list of distinct pixels: each is flipped once, the others stay; a collision is a pixel of the list that
was set; something changed unless the list is empty. -/
theorem foldl_plot (l : List Pixel) (hl : l.Nodup) (k : Canvas) :
    (∀ p, (l.foldl Canvas.plot k).fb.get p = (k.fb.get p ^^ decide (p ∈ l))) ∧
    (l.foldl Canvas.plot k).collision = (k.collision || l.any fun p => k.fb.get p) ∧
    (l.foldl Canvas.plot k).changed = (k.changed || !l.isEmpty) := by
  induction l generalizing k with
  | nil => simp
  | cons q l ih =>
    obtain ⟨hq, hl⟩ := List.nodup_cons.1 hl
    obtain ⟨h1, h2, h3⟩ := ih hl (k.plot q)
    refine ⟨fun p => ?_, ?_, ?_⟩
    · rw [List.foldl_cons, h1]
      simp only [Canvas.plot, Screen.get_toggle, List.mem_cons]
      by_cases hp : q = p
      · subst hp; simp [hq]
      · simp [hp, Ne.symm hp]
    · rw [List.foldl_cons, h2]
      have : (l.any fun p => (k.fb.toggle q).get p) = l.any fun p => k.fb.get p := by
        rw [Bool.eq_iff_iff]
        simp only [List.any_eq_true, Screen.get_toggle]
        refine exists_congr fun p => and_congr_right fun hp => ?_
        have : q ≠ p := fun h => hq (h ▸ hp)
        simp [this]
      simp [Canvas.plot, this, Bool.or_assoc]
    · rw [List.foldl_cons, h3]; simp [Canvas.plot]

/-- `draw` on any screen: each pixel of the sprite is flipped once, the others stay (R120); a collision exactly when a
pixel of the sprite was set (R121); changed exactly when the sprite has a pixel (R125). -/
theorem drawSprite_spec (fb : Screen) (x y : Byte) (rows : List Byte) (wrap : Bool) (h : rows.length ≤ 16) :
    let l := spritePixels wrap (x.toNat % 64) (y.toNat % 32) rows
    (∀ p, (drawSprite fb x y rows wrap).fb.get p = (fb.get p ^^ decide (p ∈ l))) ∧
    ((drawSprite fb x y rows wrap).collision = true ↔ ∃ p ∈ l, fb.get p = true) ∧
    ((drawSprite fb x y rows wrap).changed = true ↔ ∃ p, p ∈ l) := by
  obtain ⟨h1, h2, h3⟩ := foldl_plot _ (nodup_spritePixels wrap (x.toNat % 64) (y.toNat % 32) rows h)
    { fb := fb, collision := false, changed := false }
  refine ⟨h1, ?_, ?_⟩
  · rw [drawSprite, h2]; simp
  · rw [drawSprite, h3]
    simp only [Bool.false_or, Bool.not_eq_true', List.isEmpty_eq_false_iff_exists_mem]

end Sys2Proof.Machine
end

