-- ==== Sys2Proof/Laws/Memory.lean ====
section
/-! SUPPORT. Memory: a read after a write, and that every operation keeps the canonical form. -/

namespace Sys2Proof.Machine.Memory

@[simp] theorem read_nil (a : Nat) : Memory.read [] a = initialByte a := rfl

theorem read_cons (c : Host.Cell) (m : Memory) (a : Nat) :
    Memory.read (c :: m) a = if a = c.1 then c.2 else m.read a := rfl

/-- Erasing an address makes it read as unlisted and leaves every other one alone. -/
theorem read_erase (m : Memory) (a b : Nat) :
    (m.erase a).read b = if b = a then initialByte b else m.read b := by
  induction m with
  | nil => simp [Memory.erase]
  | cons c m ih =>
    obtain ⟨d, v⟩ := c
    simp only [Memory.erase]
    split
    · subst d; rw [ih, read_cons]; split <;> simp_all
    · rw [read_cons, read_cons, ih]; simp only
      split <;> split <;> simp_all

/-- Inserting a cell for an address that is not listed sets that address alone. -/
theorem read_insert (m : Memory) (c : Host.Cell) (hc : ∀ d ∈ m, d.1 ≠ c.1) (b : Nat) :
    (m.insert c).read b = if b = c.1 then c.2 else m.read b := by
  induction m with
  | nil => rfl
  | cons d m ih =>
    have hd : d.1 ≠ c.1 := hc d (by simp)
    simp only [Memory.insert]
    split
    · rfl
    · rw [read_cons, ih fun e he => hc e (by simp [he]), read_cons]
      split <;> split <;> simp_all

theorem ne_of_mem_erase {m : Memory} {a : Nat} {d : Host.Cell} (h : d ∈ m.erase a) : d.1 ≠ a ∧ d ∈ m := by
  induction m with
  | nil => simp [Memory.erase] at h
  | cons c m ih =>
    obtain ⟨e, v⟩ := c
    simp only [Memory.erase] at h
    split at h
    · exact ⟨(ih h).1, by simp [(ih h).2]⟩
    · rcases List.mem_cons.1 h with rfl | h
      · exact ⟨fun h => by simp_all, by simp⟩
      · exact ⟨(ih h).1, by simp [(ih h).2]⟩

/-- Reading after a write: the byte written, and every other address as before. -/
theorem read_write (m : Memory) (a b : Nat) (v : Byte) :
    (m.write a v).read b = if b = a then v else m.read b := by
  unfold Memory.write
  split
  · rw [read_erase]; split <;> simp_all
  · rw [read_insert _ _ fun d hd => (ne_of_mem_erase hd).1, read_erase]
    split <;> simp_all

/-- Reading after a run of writes. -/
theorem read_writeRun (m : Memory) (base b : Nat) (l : List Byte) :
    (m.writeRun base l).read b = if base ≤ b then l.getD (b - base) (m.read b) else m.read b := by
  induction l generalizing m base with
  | nil => simp [Memory.writeRun]
  | cons v l ih =>
    rw [Memory.writeRun, ih, read_write]
    rcases Nat.lt_trichotomy b base with h | h | h
    · rw [if_neg (by omega), if_neg (by omega), if_neg (by omega)]
    · subst h; simp
    · rw [if_pos (by omega), if_neg (by omega), if_pos (by omega)]
      obtain ⟨k, rfl⟩ : ∃ k, b = base + 1 + k := ⟨b - base - 1, by omega⟩
      have h1 : base + 1 + k - (base + 1) = k := by omega
      have h2 : base + 1 + k - base = k + 1 := by omega
      rw [h1, h2, List.getD_cons_succ]

/-- An address outside a run reads as before. -/
theorem read_writeRun_outside {m : Memory} {base b : Nat} {l : List Byte}
    (h : b < base ∨ base + l.length ≤ b) : (m.writeRun base l).read b = m.read b := by
  rw [read_writeRun]
  split
  · rw [List.getD_eq_default _ _ (by omega)]
  · rfl

@[simp] theorem length_readRun (m : Memory) (base len : Nat) : (m.readRun base len).length = len := by
  induction len generalizing base with
  | zero => rfl
  | succ len ih => simp [Memory.readRun, ih]

/-- The bytes of a run of reads, one by one. -/
theorem getElem_readRun (m : Memory) (base len j : Nat) (h : j < (m.readRun base len).length) :
    (m.readRun base len)[j] = m.read (base + j) := by
  induction len generalizing base j with
  | zero => simp [Memory.readRun] at h
  | succ len ih =>
    cases j with
    | zero => simp [Memory.readRun]
    | succ j =>
      simp only [Memory.readRun, List.getElem_cons_succ]
      rw [ih]; congr 1; omega

/-! ## The canonical form -/

theorem wf_cons (c : Host.Cell) (m : Memory) :
    Memory.wf (c :: m) = true ↔ cellOk c = true ∧ (∀ d ∈ m, c.1 < d.1) ∧ m.wf = true := by
  induction m generalizing c with
  | nil => simp [Memory.wf]
  | cons d m ih =>
    simp only [Memory.wf, Bool.and_eq_true, decide_eq_true_eq, List.mem_cons, forall_eq_or_imp]
    rw [ih d]
    constructor
    · rintro ⟨⟨hc, hcd⟩, hd, hlt, hm⟩
      exact ⟨hc, ⟨hcd, fun e he => hcd.trans (hlt e he)⟩, hd, hlt, hm⟩
    · rintro ⟨hc, ⟨hcd, -⟩, hd, hlt, hm⟩
      exact ⟨⟨hc, hcd⟩, hd, hlt, hm⟩

theorem wf_erase {m : Memory} (h : m.wf = true) (a : Nat) : (m.erase a).wf = true := by
  induction m with
  | nil => rfl
  | cons c m ih =>
    obtain ⟨hc, hlt, hm⟩ := (wf_cons c m).1 h
    simp only [Memory.erase]
    split
    · exact ih hm
    · exact (wf_cons c _).2 ⟨hc, fun d hd => hlt d (ne_of_mem_erase hd).2, ih hm⟩

theorem mem_insert {m : Memory} {c d : Host.Cell} (h : d ∈ m.insert c) : d = c ∨ d ∈ m := by
  induction m with
  | nil => simpa [Memory.insert] using h
  | cons e m ih =>
    simp only [Memory.insert] at h
    split at h
    · simpa using h
    · rcases List.mem_cons.1 h with rfl | h
      · exact .inr (by simp)
      · exact (ih h).imp id fun h => by simp [h]

theorem wf_insert {m : Memory} (h : m.wf = true) {c : Host.Cell} (hc : cellOk c = true)
    (hne : ∀ d ∈ m, d.1 ≠ c.1) : (m.insert c).wf = true := by
  induction m with
  | nil => simpa [Memory.insert, Memory.wf] using hc
  | cons e m ih =>
    obtain ⟨he, hlt, hm⟩ := (wf_cons e m).1 h
    have hne' : ∀ d ∈ m, d.1 ≠ c.1 := fun d hd => hne d (by simp [hd])
    simp only [Memory.insert]
    split
    · rename_i hce
      refine (wf_cons c _).2 ⟨hc, fun d hd => ?_, h⟩
      rcases List.mem_cons.1 hd with rfl | hd
      · exact hce
      · exact hce.trans (hlt d hd)
    · refine (wf_cons e _).2 ⟨he, fun d hd => ?_, ih hm hne'⟩
      rcases mem_insert hd with rfl | hd
      · have := hne e (by simp); omega
      · exact hlt d hd

/-- A write inside the address space keeps the canonical form. -/
theorem wf_write {m : Memory} (h : m.wf = true) {a : Nat} (ha : a < memorySize) (v : Byte) :
    (m.write a v).wf = true := by
  unfold Memory.write
  split
  · exact wf_erase h a
  · refine wf_insert (wf_erase h a) ?_ fun d hd => (ne_of_mem_erase hd).1
    simp_all [cellOk]

/-- A run of writes inside the address space keeps the canonical form. -/
theorem wf_writeRun {m : Memory} (h : m.wf = true) {base : Nat} {l : List Byte}
    (hl : base + l.length ≤ memorySize) : (m.writeRun base l).wf = true := by
  induction l generalizing m base with
  | nil => exact h
  | cons v l ih =>
    simp only [List.length_cons] at hl
    exact ih (wf_write h (by omega) v) (by omega)

end Sys2Proof.Machine.Memory
end

