-- ==== Sys2Proof/Laws/State.lean ====
section
/-! SUPPORT. Each named update, field by field: what it writes and what it leaves. -/

namespace Sys2Proof.Machine.State

variable (s : State)

/-! ## setReg -/
@[simp] theorem setReg_mem (x : Reg) (b : Byte) : (s.setReg x b).mem = s.mem := rfl
@[simp] theorem setReg_v (x : Reg) (b : Byte) : (s.setReg x b).v = s.v.set x.val b := rfl
@[simp] theorem setReg_i (x : Reg) (b : Byte) : (s.setReg x b).i = s.i := rfl
@[simp] theorem setReg_pc (x : Reg) (b : Byte) : (s.setReg x b).pc = s.pc := rfl
@[simp] theorem setReg_stack (x : Reg) (b : Byte) : (s.setReg x b).stack = s.stack := rfl
@[simp] theorem setReg_sp (x : Reg) (b : Byte) : (s.setReg x b).sp = s.sp := rfl
@[simp] theorem setReg_dt (x : Reg) (b : Byte) : (s.setReg x b).dt = s.dt := rfl
@[simp] theorem setReg_st (x : Reg) (b : Byte) : (s.setReg x b).st = s.st := rfl
@[simp] theorem setReg_fb (x : Reg) (b : Byte) : (s.setReg x b).fb = s.fb := rfl
@[simp] theorem setReg_dirty (x : Reg) (b : Byte) : (s.setReg x b).dirty = s.dirty := rfl
@[simp] theorem setReg_key (x : Reg) (b : Byte) : (s.setReg x b).key = s.key := rfl
@[simp] theorem setReg_waiting (x : Reg) (b : Byte) : (s.setReg x b).waiting = s.waiting := rfl
@[simp] theorem setReg_released (x : Reg) (b : Byte) : (s.setReg x b).released = s.released := rfl
@[simp] theorem setReg_halt (x : Reg) (b : Byte) : (s.setReg x b).halt = s.halt := rfl
@[simp] theorem setReg_quirks (x : Reg) (b : Byte) : (s.setReg x b).quirks = s.quirks := rfl
@[simp] theorem setReg_shiftVF (x : Reg) (b : Byte) : (s.setReg x b).shiftVF = s.shiftVF := rfl
@[simp] theorem setReg_draws (x : Reg) (b : Byte) : (s.setReg x b).draws = s.draws := rfl
@[simp] theorem setReg_readByte (x : Reg) (b : Byte) (a' : Nat) : (s.setReg x b).readByte a' = s.readByte a' := rfl
@[simp] theorem setReg_stackEntry (x : Reg) (b : Byte) (j : Nat) : (s.setReg x b).stackEntry j = s.stackEntry j := rfl
@[simp] theorem setReg_keyDown (x : Reg) (b : Byte) (k' : Nat) : (s.setReg x b).keyDown k' = s.keyDown k' := rfl
@[simp] theorem setReg_pixel (x : Reg) (b : Byte) (p : Pixel) : (s.setReg x b).pixel p = s.pixel p := rfl

/-! ## setI -/
@[simp] theorem setI_mem (w : Word) : (s.setI w).mem = s.mem := rfl
@[simp] theorem setI_v (w : Word) : (s.setI w).v = s.v := rfl
@[simp] theorem setI_i (w : Word) : (s.setI w).i = w := rfl
@[simp] theorem setI_pc (w : Word) : (s.setI w).pc = s.pc := rfl
@[simp] theorem setI_stack (w : Word) : (s.setI w).stack = s.stack := rfl
@[simp] theorem setI_sp (w : Word) : (s.setI w).sp = s.sp := rfl
@[simp] theorem setI_dt (w : Word) : (s.setI w).dt = s.dt := rfl
@[simp] theorem setI_st (w : Word) : (s.setI w).st = s.st := rfl
@[simp] theorem setI_fb (w : Word) : (s.setI w).fb = s.fb := rfl
@[simp] theorem setI_dirty (w : Word) : (s.setI w).dirty = s.dirty := rfl
@[simp] theorem setI_key (w : Word) : (s.setI w).key = s.key := rfl
@[simp] theorem setI_waiting (w : Word) : (s.setI w).waiting = s.waiting := rfl
@[simp] theorem setI_released (w : Word) : (s.setI w).released = s.released := rfl
@[simp] theorem setI_halt (w : Word) : (s.setI w).halt = s.halt := rfl
@[simp] theorem setI_quirks (w : Word) : (s.setI w).quirks = s.quirks := rfl
@[simp] theorem setI_shiftVF (w : Word) : (s.setI w).shiftVF = s.shiftVF := rfl
@[simp] theorem setI_draws (w : Word) : (s.setI w).draws = s.draws := rfl
@[simp] theorem setI_reg (w : Word) (j : Reg) : (s.setI w).reg j = s.reg j := rfl
@[simp] theorem setI_readByte (w : Word) (a' : Nat) : (s.setI w).readByte a' = s.readByte a' := rfl
@[simp] theorem setI_stackEntry (w : Word) (j : Nat) : (s.setI w).stackEntry j = s.stackEntry j := rfl
@[simp] theorem setI_keyDown (w : Word) (k' : Nat) : (s.setI w).keyDown k' = s.keyDown k' := rfl
@[simp] theorem setI_pixel (w : Word) (p : Pixel) : (s.setI w).pixel p = s.pixel p := rfl

/-! ## setPc -/
@[simp] theorem setPc_mem (w : Word) : (s.setPc w).mem = s.mem := rfl
@[simp] theorem setPc_v (w : Word) : (s.setPc w).v = s.v := rfl
@[simp] theorem setPc_i (w : Word) : (s.setPc w).i = s.i := rfl
@[simp] theorem setPc_pc (w : Word) : (s.setPc w).pc = w := rfl
@[simp] theorem setPc_stack (w : Word) : (s.setPc w).stack = s.stack := rfl
@[simp] theorem setPc_sp (w : Word) : (s.setPc w).sp = s.sp := rfl
@[simp] theorem setPc_dt (w : Word) : (s.setPc w).dt = s.dt := rfl
@[simp] theorem setPc_st (w : Word) : (s.setPc w).st = s.st := rfl
@[simp] theorem setPc_fb (w : Word) : (s.setPc w).fb = s.fb := rfl
@[simp] theorem setPc_dirty (w : Word) : (s.setPc w).dirty = s.dirty := rfl
@[simp] theorem setPc_key (w : Word) : (s.setPc w).key = s.key := rfl
@[simp] theorem setPc_waiting (w : Word) : (s.setPc w).waiting = s.waiting := rfl
@[simp] theorem setPc_released (w : Word) : (s.setPc w).released = s.released := rfl
@[simp] theorem setPc_halt (w : Word) : (s.setPc w).halt = s.halt := rfl
@[simp] theorem setPc_quirks (w : Word) : (s.setPc w).quirks = s.quirks := rfl
@[simp] theorem setPc_shiftVF (w : Word) : (s.setPc w).shiftVF = s.shiftVF := rfl
@[simp] theorem setPc_draws (w : Word) : (s.setPc w).draws = s.draws := rfl
@[simp] theorem setPc_reg (w : Word) (j : Reg) : (s.setPc w).reg j = s.reg j := rfl
@[simp] theorem setPc_readByte (w : Word) (a' : Nat) : (s.setPc w).readByte a' = s.readByte a' := rfl
@[simp] theorem setPc_stackEntry (w : Word) (j : Nat) : (s.setPc w).stackEntry j = s.stackEntry j := rfl
@[simp] theorem setPc_keyDown (w : Word) (k' : Nat) : (s.setPc w).keyDown k' = s.keyDown k' := rfl
@[simp] theorem setPc_pixel (w : Word) (p : Pixel) : (s.setPc w).pixel p = s.pixel p := rfl

/-! ## storeBytes -/
@[simp] theorem storeBytes_mem (a : Nat) (l : List Byte) : (s.storeBytes a l).mem = s.mem.writeRun a l := rfl
@[simp] theorem storeBytes_v (a : Nat) (l : List Byte) : (s.storeBytes a l).v = s.v := rfl
@[simp] theorem storeBytes_i (a : Nat) (l : List Byte) : (s.storeBytes a l).i = s.i := rfl
@[simp] theorem storeBytes_pc (a : Nat) (l : List Byte) : (s.storeBytes a l).pc = s.pc := rfl
@[simp] theorem storeBytes_stack (a : Nat) (l : List Byte) : (s.storeBytes a l).stack = s.stack := rfl
@[simp] theorem storeBytes_sp (a : Nat) (l : List Byte) : (s.storeBytes a l).sp = s.sp := rfl
@[simp] theorem storeBytes_dt (a : Nat) (l : List Byte) : (s.storeBytes a l).dt = s.dt := rfl
@[simp] theorem storeBytes_st (a : Nat) (l : List Byte) : (s.storeBytes a l).st = s.st := rfl
@[simp] theorem storeBytes_fb (a : Nat) (l : List Byte) : (s.storeBytes a l).fb = s.fb := rfl
@[simp] theorem storeBytes_dirty (a : Nat) (l : List Byte) : (s.storeBytes a l).dirty = s.dirty := rfl
@[simp] theorem storeBytes_key (a : Nat) (l : List Byte) : (s.storeBytes a l).key = s.key := rfl
@[simp] theorem storeBytes_waiting (a : Nat) (l : List Byte) : (s.storeBytes a l).waiting = s.waiting := rfl
@[simp] theorem storeBytes_released (a : Nat) (l : List Byte) : (s.storeBytes a l).released = s.released := rfl
@[simp] theorem storeBytes_halt (a : Nat) (l : List Byte) : (s.storeBytes a l).halt = s.halt := rfl
@[simp] theorem storeBytes_quirks (a : Nat) (l : List Byte) : (s.storeBytes a l).quirks = s.quirks := rfl
@[simp] theorem storeBytes_shiftVF (a : Nat) (l : List Byte) : (s.storeBytes a l).shiftVF = s.shiftVF := rfl
@[simp] theorem storeBytes_draws (a : Nat) (l : List Byte) : (s.storeBytes a l).draws = s.draws := rfl
@[simp] theorem storeBytes_reg (a : Nat) (l : List Byte) (j : Reg) : (s.storeBytes a l).reg j = s.reg j := rfl
@[simp] theorem storeBytes_stackEntry (a : Nat) (l : List Byte) (j : Nat) : (s.storeBytes a l).stackEntry j = s.stackEntry j := rfl
@[simp] theorem storeBytes_keyDown (a : Nat) (l : List Byte) (k' : Nat) : (s.storeBytes a l).keyDown k' = s.keyDown k' := rfl
@[simp] theorem storeBytes_pixel (a : Nat) (l : List Byte) (p : Pixel) : (s.storeBytes a l).pixel p = s.pixel p := rfl

/-! ## push -/
@[simp] theorem push_mem (w : Word) : (s.push w).mem = s.mem := rfl
@[simp] theorem push_v (w : Word) : (s.push w).v = s.v := rfl
@[simp] theorem push_i (w : Word) : (s.push w).i = s.i := rfl
@[simp] theorem push_pc (w : Word) : (s.push w).pc = s.pc := rfl
@[simp] theorem push_stack (w : Word) : (s.push w).stack = s.stack.setIfInBounds s.sp.val w := rfl
@[simp] theorem push_sp (w : Word) : (s.push w).sp = s.sp + 1 := rfl
@[simp] theorem push_dt (w : Word) : (s.push w).dt = s.dt := rfl
@[simp] theorem push_st (w : Word) : (s.push w).st = s.st := rfl
@[simp] theorem push_fb (w : Word) : (s.push w).fb = s.fb := rfl
@[simp] theorem push_dirty (w : Word) : (s.push w).dirty = s.dirty := rfl
@[simp] theorem push_key (w : Word) : (s.push w).key = s.key := rfl
@[simp] theorem push_waiting (w : Word) : (s.push w).waiting = s.waiting := rfl
@[simp] theorem push_released (w : Word) : (s.push w).released = s.released := rfl
@[simp] theorem push_halt (w : Word) : (s.push w).halt = s.halt := rfl
@[simp] theorem push_quirks (w : Word) : (s.push w).quirks = s.quirks := rfl
@[simp] theorem push_shiftVF (w : Word) : (s.push w).shiftVF = s.shiftVF := rfl
@[simp] theorem push_draws (w : Word) : (s.push w).draws = s.draws := rfl
@[simp] theorem push_reg (w : Word) (j : Reg) : (s.push w).reg j = s.reg j := rfl
@[simp] theorem push_readByte (w : Word) (a' : Nat) : (s.push w).readByte a' = s.readByte a' := rfl
@[simp] theorem push_keyDown (w : Word) (k' : Nat) : (s.push w).keyDown k' = s.keyDown k' := rfl
@[simp] theorem push_pixel (w : Word) (p : Pixel) : (s.push w).pixel p = s.pixel p := rfl

/-! ## pop -/
@[simp] theorem pop_mem : s.pop.mem = s.mem := rfl
@[simp] theorem pop_v : s.pop.v = s.v := rfl
@[simp] theorem pop_i : s.pop.i = s.i := rfl
@[simp] theorem pop_pc : s.pop.pc = s.pc := rfl
@[simp] theorem pop_stack : s.pop.stack = s.stack := rfl
@[simp] theorem pop_sp : s.pop.sp = s.sp - 1 := rfl
@[simp] theorem pop_dt : s.pop.dt = s.dt := rfl
@[simp] theorem pop_st : s.pop.st = s.st := rfl
@[simp] theorem pop_fb : s.pop.fb = s.fb := rfl
@[simp] theorem pop_dirty : s.pop.dirty = s.dirty := rfl
@[simp] theorem pop_key : s.pop.key = s.key := rfl
@[simp] theorem pop_waiting : s.pop.waiting = s.waiting := rfl
@[simp] theorem pop_released : s.pop.released = s.released := rfl
@[simp] theorem pop_halt : s.pop.halt = s.halt := rfl
@[simp] theorem pop_quirks : s.pop.quirks = s.quirks := rfl
@[simp] theorem pop_shiftVF : s.pop.shiftVF = s.shiftVF := rfl
@[simp] theorem pop_draws : s.pop.draws = s.draws := rfl
@[simp] theorem pop_reg (j : Reg) : s.pop.reg j = s.reg j := rfl
@[simp] theorem pop_readByte (a' : Nat) : s.pop.readByte a' = s.readByte a' := rfl
@[simp] theorem pop_stackEntry (j : Nat) : s.pop.stackEntry j = s.stackEntry j := rfl
@[simp] theorem pop_keyDown (k' : Nat) : s.pop.keyDown k' = s.keyDown k' := rfl
@[simp] theorem pop_pixel (p : Pixel) : s.pop.pixel p = s.pixel p := rfl

/-! ## setDT -/
@[simp] theorem setDT_mem (b : Byte) : (s.setDT b).mem = s.mem := rfl
@[simp] theorem setDT_v (b : Byte) : (s.setDT b).v = s.v := rfl
@[simp] theorem setDT_i (b : Byte) : (s.setDT b).i = s.i := rfl
@[simp] theorem setDT_pc (b : Byte) : (s.setDT b).pc = s.pc := rfl
@[simp] theorem setDT_stack (b : Byte) : (s.setDT b).stack = s.stack := rfl
@[simp] theorem setDT_sp (b : Byte) : (s.setDT b).sp = s.sp := rfl
@[simp] theorem setDT_dt (b : Byte) : (s.setDT b).dt = b := rfl
@[simp] theorem setDT_st (b : Byte) : (s.setDT b).st = s.st := rfl
@[simp] theorem setDT_fb (b : Byte) : (s.setDT b).fb = s.fb := rfl
@[simp] theorem setDT_dirty (b : Byte) : (s.setDT b).dirty = s.dirty := rfl
@[simp] theorem setDT_key (b : Byte) : (s.setDT b).key = s.key := rfl
@[simp] theorem setDT_waiting (b : Byte) : (s.setDT b).waiting = s.waiting := rfl
@[simp] theorem setDT_released (b : Byte) : (s.setDT b).released = s.released := rfl
@[simp] theorem setDT_halt (b : Byte) : (s.setDT b).halt = s.halt := rfl
@[simp] theorem setDT_quirks (b : Byte) : (s.setDT b).quirks = s.quirks := rfl
@[simp] theorem setDT_shiftVF (b : Byte) : (s.setDT b).shiftVF = s.shiftVF := rfl
@[simp] theorem setDT_draws (b : Byte) : (s.setDT b).draws = s.draws := rfl
@[simp] theorem setDT_reg (b : Byte) (j : Reg) : (s.setDT b).reg j = s.reg j := rfl
@[simp] theorem setDT_readByte (b : Byte) (a' : Nat) : (s.setDT b).readByte a' = s.readByte a' := rfl
@[simp] theorem setDT_stackEntry (b : Byte) (j : Nat) : (s.setDT b).stackEntry j = s.stackEntry j := rfl
@[simp] theorem setDT_keyDown (b : Byte) (k' : Nat) : (s.setDT b).keyDown k' = s.keyDown k' := rfl
@[simp] theorem setDT_pixel (b : Byte) (p : Pixel) : (s.setDT b).pixel p = s.pixel p := rfl

/-! ## setST -/
@[simp] theorem setST_mem (b : Byte) : (s.setST b).mem = s.mem := rfl
@[simp] theorem setST_v (b : Byte) : (s.setST b).v = s.v := rfl
@[simp] theorem setST_i (b : Byte) : (s.setST b).i = s.i := rfl
@[simp] theorem setST_pc (b : Byte) : (s.setST b).pc = s.pc := rfl
@[simp] theorem setST_stack (b : Byte) : (s.setST b).stack = s.stack := rfl
@[simp] theorem setST_sp (b : Byte) : (s.setST b).sp = s.sp := rfl
@[simp] theorem setST_dt (b : Byte) : (s.setST b).dt = s.dt := rfl
@[simp] theorem setST_st (b : Byte) : (s.setST b).st = b := rfl
@[simp] theorem setST_fb (b : Byte) : (s.setST b).fb = s.fb := rfl
@[simp] theorem setST_dirty (b : Byte) : (s.setST b).dirty = s.dirty := rfl
@[simp] theorem setST_key (b : Byte) : (s.setST b).key = s.key := rfl
@[simp] theorem setST_waiting (b : Byte) : (s.setST b).waiting = s.waiting := rfl
@[simp] theorem setST_released (b : Byte) : (s.setST b).released = s.released := rfl
@[simp] theorem setST_halt (b : Byte) : (s.setST b).halt = s.halt := rfl
@[simp] theorem setST_quirks (b : Byte) : (s.setST b).quirks = s.quirks := rfl
@[simp] theorem setST_shiftVF (b : Byte) : (s.setST b).shiftVF = s.shiftVF := rfl
@[simp] theorem setST_draws (b : Byte) : (s.setST b).draws = s.draws := rfl
@[simp] theorem setST_reg (b : Byte) (j : Reg) : (s.setST b).reg j = s.reg j := rfl
@[simp] theorem setST_readByte (b : Byte) (a' : Nat) : (s.setST b).readByte a' = s.readByte a' := rfl
@[simp] theorem setST_stackEntry (b : Byte) (j : Nat) : (s.setST b).stackEntry j = s.stackEntry j := rfl
@[simp] theorem setST_keyDown (b : Byte) (k' : Nat) : (s.setST b).keyDown k' = s.keyDown k' := rfl
@[simp] theorem setST_pixel (b : Byte) (p : Pixel) : (s.setST b).pixel p = s.pixel p := rfl

/-! ## setWait -/
@[simp] theorem setWait_mem (w : Bool) (r : Option Key) : (s.setWait w r).mem = s.mem := rfl
@[simp] theorem setWait_v (w : Bool) (r : Option Key) : (s.setWait w r).v = s.v := rfl
@[simp] theorem setWait_i (w : Bool) (r : Option Key) : (s.setWait w r).i = s.i := rfl
@[simp] theorem setWait_pc (w : Bool) (r : Option Key) : (s.setWait w r).pc = s.pc := rfl
@[simp] theorem setWait_stack (w : Bool) (r : Option Key) : (s.setWait w r).stack = s.stack := rfl
@[simp] theorem setWait_sp (w : Bool) (r : Option Key) : (s.setWait w r).sp = s.sp := rfl
@[simp] theorem setWait_dt (w : Bool) (r : Option Key) : (s.setWait w r).dt = s.dt := rfl
@[simp] theorem setWait_st (w : Bool) (r : Option Key) : (s.setWait w r).st = s.st := rfl
@[simp] theorem setWait_fb (w : Bool) (r : Option Key) : (s.setWait w r).fb = s.fb := rfl
@[simp] theorem setWait_dirty (w : Bool) (r : Option Key) : (s.setWait w r).dirty = s.dirty := rfl
@[simp] theorem setWait_key (w : Bool) (r : Option Key) : (s.setWait w r).key = s.key := rfl
@[simp] theorem setWait_waiting (w : Bool) (r : Option Key) : (s.setWait w r).waiting = w := rfl
@[simp] theorem setWait_released (w : Bool) (r : Option Key) : (s.setWait w r).released = r := rfl
@[simp] theorem setWait_halt (w : Bool) (r : Option Key) : (s.setWait w r).halt = s.halt := rfl
@[simp] theorem setWait_quirks (w : Bool) (r : Option Key) : (s.setWait w r).quirks = s.quirks := rfl
@[simp] theorem setWait_shiftVF (w : Bool) (r : Option Key) : (s.setWait w r).shiftVF = s.shiftVF := rfl
@[simp] theorem setWait_draws (w : Bool) (r : Option Key) : (s.setWait w r).draws = s.draws := rfl
@[simp] theorem setWait_reg (w : Bool) (r : Option Key) (j : Reg) : (s.setWait w r).reg j = s.reg j := rfl
@[simp] theorem setWait_readByte (w : Bool) (r : Option Key) (a' : Nat) : (s.setWait w r).readByte a' = s.readByte a' := rfl
@[simp] theorem setWait_stackEntry (w : Bool) (r : Option Key) (j : Nat) : (s.setWait w r).stackEntry j = s.stackEntry j := rfl
@[simp] theorem setWait_keyDown (w : Bool) (r : Option Key) (k' : Nat) : (s.setWait w r).keyDown k' = s.keyDown k' := rfl
@[simp] theorem setWait_pixel (w : Bool) (r : Option Key) (p : Pixel) : (s.setWait w r).pixel p = s.pixel p := rfl

/-! ## setDisplay -/
@[simp] theorem setDisplay_mem (fb : Screen) (d : Bool) : (s.setDisplay fb d).mem = s.mem := rfl
@[simp] theorem setDisplay_v (fb : Screen) (d : Bool) : (s.setDisplay fb d).v = s.v := rfl
@[simp] theorem setDisplay_i (fb : Screen) (d : Bool) : (s.setDisplay fb d).i = s.i := rfl
@[simp] theorem setDisplay_pc (fb : Screen) (d : Bool) : (s.setDisplay fb d).pc = s.pc := rfl
@[simp] theorem setDisplay_stack (fb : Screen) (d : Bool) : (s.setDisplay fb d).stack = s.stack := rfl
@[simp] theorem setDisplay_sp (fb : Screen) (d : Bool) : (s.setDisplay fb d).sp = s.sp := rfl
@[simp] theorem setDisplay_dt (fb : Screen) (d : Bool) : (s.setDisplay fb d).dt = s.dt := rfl
@[simp] theorem setDisplay_st (fb : Screen) (d : Bool) : (s.setDisplay fb d).st = s.st := rfl
@[simp] theorem setDisplay_fb (fb : Screen) (d : Bool) : (s.setDisplay fb d).fb = fb := rfl
@[simp] theorem setDisplay_dirty (fb : Screen) (d : Bool) : (s.setDisplay fb d).dirty = d := rfl
@[simp] theorem setDisplay_key (fb : Screen) (d : Bool) : (s.setDisplay fb d).key = s.key := rfl
@[simp] theorem setDisplay_waiting (fb : Screen) (d : Bool) : (s.setDisplay fb d).waiting = s.waiting := rfl
@[simp] theorem setDisplay_released (fb : Screen) (d : Bool) : (s.setDisplay fb d).released = s.released := rfl
@[simp] theorem setDisplay_halt (fb : Screen) (d : Bool) : (s.setDisplay fb d).halt = s.halt := rfl
@[simp] theorem setDisplay_quirks (fb : Screen) (d : Bool) : (s.setDisplay fb d).quirks = s.quirks := rfl
@[simp] theorem setDisplay_shiftVF (fb : Screen) (d : Bool) : (s.setDisplay fb d).shiftVF = s.shiftVF := rfl
@[simp] theorem setDisplay_draws (fb : Screen) (d : Bool) : (s.setDisplay fb d).draws = s.draws := rfl
@[simp] theorem setDisplay_reg (fb : Screen) (d : Bool) (j : Reg) : (s.setDisplay fb d).reg j = s.reg j := rfl
@[simp] theorem setDisplay_readByte (fb : Screen) (d : Bool) (a' : Nat) : (s.setDisplay fb d).readByte a' = s.readByte a' := rfl
@[simp] theorem setDisplay_stackEntry (fb : Screen) (d : Bool) (j : Nat) : (s.setDisplay fb d).stackEntry j = s.stackEntry j := rfl
@[simp] theorem setDisplay_keyDown (fb : Screen) (d : Bool) (k' : Nat) : (s.setDisplay fb d).keyDown k' = s.keyDown k' := rfl

/-! ## nextDraw -/
@[simp] theorem nextDraw_mem : s.nextDraw.mem = s.mem := rfl
@[simp] theorem nextDraw_v : s.nextDraw.v = s.v := rfl
@[simp] theorem nextDraw_i : s.nextDraw.i = s.i := rfl
@[simp] theorem nextDraw_pc : s.nextDraw.pc = s.pc := rfl
@[simp] theorem nextDraw_stack : s.nextDraw.stack = s.stack := rfl
@[simp] theorem nextDraw_sp : s.nextDraw.sp = s.sp := rfl
@[simp] theorem nextDraw_dt : s.nextDraw.dt = s.dt := rfl
@[simp] theorem nextDraw_st : s.nextDraw.st = s.st := rfl
@[simp] theorem nextDraw_fb : s.nextDraw.fb = s.fb := rfl
@[simp] theorem nextDraw_dirty : s.nextDraw.dirty = s.dirty := rfl
@[simp] theorem nextDraw_key : s.nextDraw.key = s.key := rfl
@[simp] theorem nextDraw_waiting : s.nextDraw.waiting = s.waiting := rfl
@[simp] theorem nextDraw_released : s.nextDraw.released = s.released := rfl
@[simp] theorem nextDraw_halt : s.nextDraw.halt = s.halt := rfl
@[simp] theorem nextDraw_quirks : s.nextDraw.quirks = s.quirks := rfl
@[simp] theorem nextDraw_shiftVF : s.nextDraw.shiftVF = s.shiftVF := rfl
@[simp] theorem nextDraw_draws : s.nextDraw.draws = s.draws + 1 := rfl
@[simp] theorem nextDraw_reg (j : Reg) : s.nextDraw.reg j = s.reg j := rfl
@[simp] theorem nextDraw_readByte (a' : Nat) : s.nextDraw.readByte a' = s.readByte a' := rfl
@[simp] theorem nextDraw_stackEntry (j : Nat) : s.nextDraw.stackEntry j = s.stackEntry j := rfl
@[simp] theorem nextDraw_keyDown (k' : Nat) : s.nextDraw.keyDown k' = s.keyDown k' := rfl
@[simp] theorem nextDraw_pixel (p : Pixel) : s.nextDraw.pixel p = s.pixel p := rfl

/-! ## raiseFault -/
@[simp] theorem raiseFault_mem (k : FaultKind) : (s.raiseFault k).mem = s.mem := rfl
@[simp] theorem raiseFault_v (k : FaultKind) : (s.raiseFault k).v = s.v := rfl
@[simp] theorem raiseFault_i (k : FaultKind) : (s.raiseFault k).i = s.i := rfl
@[simp] theorem raiseFault_pc (k : FaultKind) : (s.raiseFault k).pc = s.pc := rfl
@[simp] theorem raiseFault_stack (k : FaultKind) : (s.raiseFault k).stack = s.stack := rfl
@[simp] theorem raiseFault_sp (k : FaultKind) : (s.raiseFault k).sp = s.sp := rfl
@[simp] theorem raiseFault_dt (k : FaultKind) : (s.raiseFault k).dt = s.dt := rfl
@[simp] theorem raiseFault_st (k : FaultKind) : (s.raiseFault k).st = s.st := rfl
@[simp] theorem raiseFault_fb (k : FaultKind) : (s.raiseFault k).fb = s.fb := rfl
@[simp] theorem raiseFault_dirty (k : FaultKind) : (s.raiseFault k).dirty = s.dirty := rfl
@[simp] theorem raiseFault_key (k : FaultKind) : (s.raiseFault k).key = s.key := rfl
@[simp] theorem raiseFault_waiting (k : FaultKind) : (s.raiseFault k).waiting = s.waiting := rfl
@[simp] theorem raiseFault_released (k : FaultKind) : (s.raiseFault k).released = s.released := rfl
@[simp] theorem raiseFault_halt (k : FaultKind) : (s.raiseFault k).halt = some k := rfl
@[simp] theorem raiseFault_quirks (k : FaultKind) : (s.raiseFault k).quirks = s.quirks := rfl
@[simp] theorem raiseFault_shiftVF (k : FaultKind) : (s.raiseFault k).shiftVF = s.shiftVF := rfl
@[simp] theorem raiseFault_draws (k : FaultKind) : (s.raiseFault k).draws = s.draws := rfl
@[simp] theorem raiseFault_reg (k : FaultKind) (j : Reg) : (s.raiseFault k).reg j = s.reg j := rfl
@[simp] theorem raiseFault_readByte (k : FaultKind) (a' : Nat) : (s.raiseFault k).readByte a' = s.readByte a' := rfl
@[simp] theorem raiseFault_stackEntry (k : FaultKind) (j : Nat) : (s.raiseFault k).stackEntry j = s.stackEntry j := rfl
@[simp] theorem raiseFault_keyDown (k : FaultKind) (k' : Nat) : (s.raiseFault k).keyDown k' = s.keyDown k' := rfl
@[simp] theorem raiseFault_pixel (k : FaultKind) (p : Pixel) : (s.raiseFault k).pixel p = s.pixel p := rfl

/-! ## loadRun -/
@[simp] theorem loadRun_mem (x : Reg) : (s.loadRun x).mem = s.mem := rfl
@[simp] theorem loadRun_v (x : Reg) : (s.loadRun x).v = loadRegs s.v 0 (s.readBytes s.i.toNat (x.val + 1)) := rfl
@[simp] theorem loadRun_i (x : Reg) : (s.loadRun x).i = s.i := rfl
@[simp] theorem loadRun_pc (x : Reg) : (s.loadRun x).pc = s.pc := rfl
@[simp] theorem loadRun_stack (x : Reg) : (s.loadRun x).stack = s.stack := rfl
@[simp] theorem loadRun_sp (x : Reg) : (s.loadRun x).sp = s.sp := rfl
@[simp] theorem loadRun_dt (x : Reg) : (s.loadRun x).dt = s.dt := rfl
@[simp] theorem loadRun_st (x : Reg) : (s.loadRun x).st = s.st := rfl
@[simp] theorem loadRun_fb (x : Reg) : (s.loadRun x).fb = s.fb := rfl
@[simp] theorem loadRun_dirty (x : Reg) : (s.loadRun x).dirty = s.dirty := rfl
@[simp] theorem loadRun_key (x : Reg) : (s.loadRun x).key = s.key := rfl
@[simp] theorem loadRun_waiting (x : Reg) : (s.loadRun x).waiting = s.waiting := rfl
@[simp] theorem loadRun_released (x : Reg) : (s.loadRun x).released = s.released := rfl
@[simp] theorem loadRun_halt (x : Reg) : (s.loadRun x).halt = s.halt := rfl
@[simp] theorem loadRun_quirks (x : Reg) : (s.loadRun x).quirks = s.quirks := rfl
@[simp] theorem loadRun_shiftVF (x : Reg) : (s.loadRun x).shiftVF = s.shiftVF := rfl
@[simp] theorem loadRun_draws (x : Reg) : (s.loadRun x).draws = s.draws := rfl
@[simp] theorem loadRun_readByte (x : Reg) (a' : Nat) : (s.loadRun x).readByte a' = s.readByte a' := rfl
@[simp] theorem loadRun_stackEntry (x : Reg) (j : Nat) : (s.loadRun x).stackEntry j = s.stackEntry j := rfl
@[simp] theorem loadRun_keyDown (x : Reg) (k' : Nat) : (s.loadRun x).keyDown k' = s.keyDown k' := rfl
@[simp] theorem loadRun_pixel (x : Reg) (p : Pixel) : (s.loadRun x).pixel p = s.pixel p := rfl

/-! ## setKey -/
@[simp] theorem setKey_mem (k : Key) (b : Bool) : (s.setKey k b).mem = s.mem := rfl
@[simp] theorem setKey_v (k : Key) (b : Bool) : (s.setKey k b).v = s.v := rfl
@[simp] theorem setKey_i (k : Key) (b : Bool) : (s.setKey k b).i = s.i := rfl
@[simp] theorem setKey_pc (k : Key) (b : Bool) : (s.setKey k b).pc = s.pc := rfl
@[simp] theorem setKey_stack (k : Key) (b : Bool) : (s.setKey k b).stack = s.stack := rfl
@[simp] theorem setKey_sp (k : Key) (b : Bool) : (s.setKey k b).sp = s.sp := rfl
@[simp] theorem setKey_dt (k : Key) (b : Bool) : (s.setKey k b).dt = s.dt := rfl
@[simp] theorem setKey_st (k : Key) (b : Bool) : (s.setKey k b).st = s.st := rfl
@[simp] theorem setKey_fb (k : Key) (b : Bool) : (s.setKey k b).fb = s.fb := rfl
@[simp] theorem setKey_dirty (k : Key) (b : Bool) : (s.setKey k b).dirty = s.dirty := rfl
@[simp] theorem setKey_key (k : Key) (b : Bool) : (s.setKey k b).key = s.key.set k.val b := rfl
@[simp] theorem setKey_waiting (k : Key) (b : Bool) : (s.setKey k b).waiting = s.waiting := rfl
@[simp] theorem setKey_released (k : Key) (b : Bool) : (s.setKey k b).released = s.released := rfl
@[simp] theorem setKey_halt (k : Key) (b : Bool) : (s.setKey k b).halt = s.halt := rfl
@[simp] theorem setKey_quirks (k : Key) (b : Bool) : (s.setKey k b).quirks = s.quirks := rfl
@[simp] theorem setKey_shiftVF (k : Key) (b : Bool) : (s.setKey k b).shiftVF = s.shiftVF := rfl
@[simp] theorem setKey_draws (k : Key) (b : Bool) : (s.setKey k b).draws = s.draws := rfl
@[simp] theorem setKey_reg (k : Key) (b : Bool) (j : Reg) : (s.setKey k b).reg j = s.reg j := rfl
@[simp] theorem setKey_readByte (k : Key) (b : Bool) (a' : Nat) : (s.setKey k b).readByte a' = s.readByte a' := rfl
@[simp] theorem setKey_stackEntry (k : Key) (b : Bool) (j : Nat) : (s.setKey k b).stackEntry j = s.stackEntry j := rfl
@[simp] theorem setKey_pixel (k : Key) (b : Bool) (p : Pixel) : (s.setKey k b).pixel p = s.pixel p := rfl

/-! ## clearDirty -/
@[simp] theorem clearDirty_mem : s.clearDirty.mem = s.mem := rfl
@[simp] theorem clearDirty_v : s.clearDirty.v = s.v := rfl
@[simp] theorem clearDirty_i : s.clearDirty.i = s.i := rfl
@[simp] theorem clearDirty_pc : s.clearDirty.pc = s.pc := rfl
@[simp] theorem clearDirty_stack : s.clearDirty.stack = s.stack := rfl
@[simp] theorem clearDirty_sp : s.clearDirty.sp = s.sp := rfl
@[simp] theorem clearDirty_dt : s.clearDirty.dt = s.dt := rfl
@[simp] theorem clearDirty_st : s.clearDirty.st = s.st := rfl
@[simp] theorem clearDirty_fb : s.clearDirty.fb = s.fb := rfl
@[simp] theorem clearDirty_dirty : s.clearDirty.dirty = false := rfl
@[simp] theorem clearDirty_key : s.clearDirty.key = s.key := rfl
@[simp] theorem clearDirty_waiting : s.clearDirty.waiting = s.waiting := rfl
@[simp] theorem clearDirty_released : s.clearDirty.released = s.released := rfl
@[simp] theorem clearDirty_halt : s.clearDirty.halt = s.halt := rfl
@[simp] theorem clearDirty_quirks : s.clearDirty.quirks = s.quirks := rfl
@[simp] theorem clearDirty_shiftVF : s.clearDirty.shiftVF = s.shiftVF := rfl
@[simp] theorem clearDirty_draws : s.clearDirty.draws = s.draws := rfl
@[simp] theorem clearDirty_reg (j : Reg) : s.clearDirty.reg j = s.reg j := rfl
@[simp] theorem clearDirty_readByte (a' : Nat) : s.clearDirty.readByte a' = s.readByte a' := rfl
@[simp] theorem clearDirty_stackEntry (j : Nat) : s.clearDirty.stackEntry j = s.stackEntry j := rfl
@[simp] theorem clearDirty_keyDown (k' : Nat) : s.clearDirty.keyDown k' = s.keyDown k' := rfl
@[simp] theorem clearDirty_pixel (p : Pixel) : s.clearDirty.pixel p = s.pixel p := rfl

/-! ## setBitwise: what it leaves -/
@[simp] theorem setBitwise_mem (x : Reg) (b : Byte) : (s.setBitwise x b).mem = s.mem := by unfold State.setBitwise; split <;> rfl
@[simp] theorem setBitwise_i (x : Reg) (b : Byte) : (s.setBitwise x b).i = s.i := by unfold State.setBitwise; split <;> rfl
@[simp] theorem setBitwise_pc (x : Reg) (b : Byte) : (s.setBitwise x b).pc = s.pc := by unfold State.setBitwise; split <;> rfl
@[simp] theorem setBitwise_stack (x : Reg) (b : Byte) : (s.setBitwise x b).stack = s.stack := by unfold State.setBitwise; split <;> rfl
@[simp] theorem setBitwise_sp (x : Reg) (b : Byte) : (s.setBitwise x b).sp = s.sp := by unfold State.setBitwise; split <;> rfl
@[simp] theorem setBitwise_dt (x : Reg) (b : Byte) : (s.setBitwise x b).dt = s.dt := by unfold State.setBitwise; split <;> rfl
@[simp] theorem setBitwise_st (x : Reg) (b : Byte) : (s.setBitwise x b).st = s.st := by unfold State.setBitwise; split <;> rfl
@[simp] theorem setBitwise_fb (x : Reg) (b : Byte) : (s.setBitwise x b).fb = s.fb := by unfold State.setBitwise; split <;> rfl
@[simp] theorem setBitwise_dirty (x : Reg) (b : Byte) : (s.setBitwise x b).dirty = s.dirty := by unfold State.setBitwise; split <;> rfl
@[simp] theorem setBitwise_key (x : Reg) (b : Byte) : (s.setBitwise x b).key = s.key := by unfold State.setBitwise; split <;> rfl
@[simp] theorem setBitwise_waiting (x : Reg) (b : Byte) : (s.setBitwise x b).waiting = s.waiting := by unfold State.setBitwise; split <;> rfl
@[simp] theorem setBitwise_released (x : Reg) (b : Byte) : (s.setBitwise x b).released = s.released := by unfold State.setBitwise; split <;> rfl
@[simp] theorem setBitwise_halt (x : Reg) (b : Byte) : (s.setBitwise x b).halt = s.halt := by unfold State.setBitwise; split <;> rfl
@[simp] theorem setBitwise_quirks (x : Reg) (b : Byte) : (s.setBitwise x b).quirks = s.quirks := by unfold State.setBitwise; split <;> rfl
@[simp] theorem setBitwise_shiftVF (x : Reg) (b : Byte) : (s.setBitwise x b).shiftVF = s.shiftVF := by unfold State.setBitwise; split <;> rfl
@[simp] theorem setBitwise_draws (x : Reg) (b : Byte) : (s.setBitwise x b).draws = s.draws := by unfold State.setBitwise; split <;> rfl
@[simp] theorem setBitwise_readByte (x : Reg) (b : Byte) (a' : Nat) : (s.setBitwise x b).readByte a' = s.readByte a' := by unfold State.setBitwise; split <;> rfl
@[simp] theorem setBitwise_stackEntry (x : Reg) (b : Byte) (j : Nat) : (s.setBitwise x b).stackEntry j = s.stackEntry j := by unfold State.setBitwise; split <;> rfl
@[simp] theorem setBitwise_keyDown (x : Reg) (b : Byte) (k' : Nat) : (s.setBitwise x b).keyDown k' = s.keyDown k' := by unfold State.setBitwise; split <;> rfl
@[simp] theorem setBitwise_pixel (x : Reg) (b : Byte) (p : Pixel) : (s.setBitwise x b).pixel p = s.pixel p := by unfold State.setBitwise; split <;> rfl

/-! ## setShift: what it leaves -/
@[simp] theorem setShift_mem (x : Reg) (b f w : Byte) : (s.setShift x b f w).mem = s.mem := by unfold State.setShift; split <;> rfl
@[simp] theorem setShift_i (x : Reg) (b f w : Byte) : (s.setShift x b f w).i = s.i := by unfold State.setShift; split <;> rfl
@[simp] theorem setShift_pc (x : Reg) (b f w : Byte) : (s.setShift x b f w).pc = s.pc := by unfold State.setShift; split <;> rfl
@[simp] theorem setShift_stack (x : Reg) (b f w : Byte) : (s.setShift x b f w).stack = s.stack := by unfold State.setShift; split <;> rfl
@[simp] theorem setShift_sp (x : Reg) (b f w : Byte) : (s.setShift x b f w).sp = s.sp := by unfold State.setShift; split <;> rfl
@[simp] theorem setShift_dt (x : Reg) (b f w : Byte) : (s.setShift x b f w).dt = s.dt := by unfold State.setShift; split <;> rfl
@[simp] theorem setShift_st (x : Reg) (b f w : Byte) : (s.setShift x b f w).st = s.st := by unfold State.setShift; split <;> rfl
@[simp] theorem setShift_fb (x : Reg) (b f w : Byte) : (s.setShift x b f w).fb = s.fb := by unfold State.setShift; split <;> rfl
@[simp] theorem setShift_dirty (x : Reg) (b f w : Byte) : (s.setShift x b f w).dirty = s.dirty := by unfold State.setShift; split <;> rfl
@[simp] theorem setShift_key (x : Reg) (b f w : Byte) : (s.setShift x b f w).key = s.key := by unfold State.setShift; split <;> rfl
@[simp] theorem setShift_waiting (x : Reg) (b f w : Byte) : (s.setShift x b f w).waiting = s.waiting := by unfold State.setShift; split <;> rfl
@[simp] theorem setShift_released (x : Reg) (b f w : Byte) : (s.setShift x b f w).released = s.released := by unfold State.setShift; split <;> rfl
@[simp] theorem setShift_halt (x : Reg) (b f w : Byte) : (s.setShift x b f w).halt = s.halt := by unfold State.setShift; split <;> rfl
@[simp] theorem setShift_quirks (x : Reg) (b f w : Byte) : (s.setShift x b f w).quirks = s.quirks := by unfold State.setShift; split <;> rfl
@[simp] theorem setShift_shiftVF (x : Reg) (b f w : Byte) : (s.setShift x b f w).shiftVF = s.shiftVF := by unfold State.setShift; split <;> rfl
@[simp] theorem setShift_draws (x : Reg) (b f w : Byte) : (s.setShift x b f w).draws = s.draws := by unfold State.setShift; split <;> rfl
@[simp] theorem setShift_readByte (x : Reg) (b f w : Byte) (a' : Nat) : (s.setShift x b f w).readByte a' = s.readByte a' := by unfold State.setShift; split <;> rfl
@[simp] theorem setShift_stackEntry (x : Reg) (b f w : Byte) (j : Nat) : (s.setShift x b f w).stackEntry j = s.stackEntry j := by unfold State.setShift; split <;> rfl
@[simp] theorem setShift_keyDown (x : Reg) (b f w : Byte) (k' : Nat) : (s.setShift x b f w).keyDown k' = s.keyDown k' := by unfold State.setShift; split <;> rfl
@[simp] theorem setShift_pixel (x : Reg) (b f w : Byte) (p : Pixel) : (s.setShift x b f w).pixel p = s.pixel p := by unfold State.setShift; split <;> rfl

/-! ## advanceIndex: what it leaves -/
@[simp] theorem advanceIndex_mem (x : Reg) : (s.advanceIndex x).mem = s.mem := by unfold State.advanceIndex; split <;> rfl
@[simp] theorem advanceIndex_v (x : Reg) : (s.advanceIndex x).v = s.v := by unfold State.advanceIndex; split <;> rfl
@[simp] theorem advanceIndex_pc (x : Reg) : (s.advanceIndex x).pc = s.pc := by unfold State.advanceIndex; split <;> rfl
@[simp] theorem advanceIndex_stack (x : Reg) : (s.advanceIndex x).stack = s.stack := by unfold State.advanceIndex; split <;> rfl
@[simp] theorem advanceIndex_sp (x : Reg) : (s.advanceIndex x).sp = s.sp := by unfold State.advanceIndex; split <;> rfl
@[simp] theorem advanceIndex_dt (x : Reg) : (s.advanceIndex x).dt = s.dt := by unfold State.advanceIndex; split <;> rfl
@[simp] theorem advanceIndex_st (x : Reg) : (s.advanceIndex x).st = s.st := by unfold State.advanceIndex; split <;> rfl
@[simp] theorem advanceIndex_fb (x : Reg) : (s.advanceIndex x).fb = s.fb := by unfold State.advanceIndex; split <;> rfl
@[simp] theorem advanceIndex_dirty (x : Reg) : (s.advanceIndex x).dirty = s.dirty := by unfold State.advanceIndex; split <;> rfl
@[simp] theorem advanceIndex_key (x : Reg) : (s.advanceIndex x).key = s.key := by unfold State.advanceIndex; split <;> rfl
@[simp] theorem advanceIndex_waiting (x : Reg) : (s.advanceIndex x).waiting = s.waiting := by unfold State.advanceIndex; split <;> rfl
@[simp] theorem advanceIndex_released (x : Reg) : (s.advanceIndex x).released = s.released := by unfold State.advanceIndex; split <;> rfl
@[simp] theorem advanceIndex_halt (x : Reg) : (s.advanceIndex x).halt = s.halt := by unfold State.advanceIndex; split <;> rfl
@[simp] theorem advanceIndex_quirks (x : Reg) : (s.advanceIndex x).quirks = s.quirks := by unfold State.advanceIndex; split <;> rfl
@[simp] theorem advanceIndex_shiftVF (x : Reg) : (s.advanceIndex x).shiftVF = s.shiftVF := by unfold State.advanceIndex; split <;> rfl
@[simp] theorem advanceIndex_draws (x : Reg) : (s.advanceIndex x).draws = s.draws := by unfold State.advanceIndex; split <;> rfl
@[simp] theorem advanceIndex_reg (x : Reg) (j : Reg) : (s.advanceIndex x).reg j = s.reg j := by unfold State.advanceIndex; split <;> rfl
@[simp] theorem advanceIndex_readByte (x : Reg) (a' : Nat) : (s.advanceIndex x).readByte a' = s.readByte a' := by unfold State.advanceIndex; split <;> rfl
@[simp] theorem advanceIndex_stackEntry (x : Reg) (j : Nat) : (s.advanceIndex x).stackEntry j = s.stackEntry j := by unfold State.advanceIndex; split <;> rfl
@[simp] theorem advanceIndex_keyDown (x : Reg) (k' : Nat) : (s.advanceIndex x).keyDown k' = s.keyDown k' := by unfold State.advanceIndex; split <;> rfl
@[simp] theorem advanceIndex_pixel (x : Reg) (p : Pixel) : (s.advanceIndex x).pixel p = s.pixel p := by unfold State.advanceIndex; split <;> rfl

/-! ## Updates that are another update by definition -/
@[simp] theorem setVF_eq (b : Byte) : s.setVF b = s.setReg Reg.vf b := rfl
@[simp] theorem advancePc_eq : s.advancePc = s.setPc (s.pc + 2) := rfl
@[simp] theorem rewindPc_eq : s.rewindPc = s.setPc (s.pc - 2) := rfl
@[simp] theorem setResultFlag_eq (x : Reg) (r f : Byte) :
    s.setResultFlag x r f = (s.setReg x r).setReg Reg.vf f := rfl
@[simp] theorem skipIf_eq (c : Bool) : s.skipIf c = s.setPc (if c then s.pc + 2 else s.pc) := by cases c <;> rfl
@[simp] theorem setCanvas_eq (k : Canvas) : s.setCanvas k =
    (s.setDisplay k.fb (s.dirty || k.changed)).setReg Reg.vf (collisionFlag k.collision) := rfl
@[simp] theorem captureKey_eq (x : Reg) (k : Key) : s.captureKey x k =
    (s.setReg x (BitVec.ofNat 8 k.val)).setWait false none := rfl
@[simp] theorem setRandom_eq (x : Reg) (nn d : Byte) : s.setRandom x nn d = (s.setReg x (d &&& nn)).nextDraw := rfl
@[simp] theorem fetchedFrom_eq : s.fetchedFrom = s.pc - 2 := rfl

end Sys2Proof.Machine.State
end

