-- ==== Sys2Proof/Laws/Ops.lean ====
section
/-! SUPPORT. The shared operations: registers, the stack, skips, the checks, and what `checked` can answer. -/

namespace Sys2Proof.Machine

variable (s : State)

/-! ## Registers and their operand forms -/

/-- A register after a register write. -/
theorem State.reg_setReg (x j : Reg) (b : Byte) : (s.setReg x b).reg j = if j = x then b else s.reg j := by
  simp only [State.reg, State.setReg, Vector.getElem_set, Fin.ext_iff, eq_comm]

@[simp] theorem State.reg_setReg_same (x : Reg) (b : Byte) : (s.setReg x b).reg x = b := by simp [State.reg_setReg]

theorem State.reg_setReg_ne {x j : Reg} (h : j ≠ x) (b : Byte) : (s.setReg x b).reg j = s.reg j := by
  simp [State.reg_setReg, h]

/-- A result and then a flag: VF holds the flag whatever x is. -/
theorem State.reg_setResultFlag (x j : Reg) (r f : Byte) :
    (s.setResultFlag x r f).reg j = if j = Reg.vf then f else if j = x then r else s.reg j := by
  simp [State.setResultFlag, State.reg_setReg]

/-- A register after OR, AND or XOR. -/
theorem State.reg_setBitwise (x j : Reg) (r : Byte) : (s.setBitwise x r).reg j =
    if s.quirks.vfReset = true ∧ j = Reg.vf then 0 else if j = x then r else s.reg j := by
  unfold State.setBitwise
  split
  · rename_i h; rw [State.reg_setResultFlag]; simp [h]
  · rename_i h; rw [State.reg_setReg]; simp [h]

/-- A register after SHR or SHL. -/
theorem State.reg_setShift (x j : Reg) (r f b : Byte) : (s.setShift x r f b).reg j =
    if j = Reg.vf then (if x = Reg.vf then b else f) else if j = x then r else s.reg j := by
  unfold State.setShift
  split
  · rename_i h; rw [State.setVF_eq, State.reg_setReg, h]; split <;> rfl
  · rw [State.reg_setResultFlag]

/-- I after SREG or LREG. -/
theorem State.advanceIndex_i (x : Reg) :
    (s.advanceIndex x).i = if s.quirks.memory then s.i + BitVec.ofNat 16 (x.val + 1) else s.i := by
  unfold State.advanceIndex; split <;> rfl

/-- The registers after LREG's loop, from a run of bytes. -/
theorem getElem_loadRegs (v : Vector Byte 16) (start : Nat) (l : List Byte) (j : Nat) (hj : j < 16) :
    (loadRegs v start l)[j] = if start ≤ j then l.getD (j - start) v[j] else v[j] := by
  induction l generalizing v start with
  | nil => simp [loadRegs]
  | cons b l ih =>
    rw [loadRegs, ih]
    rcases Nat.lt_trichotomy j start with h | h | h
    · rw [if_neg (by omega), if_neg (by omega), Vector.getElem_setIfInBounds_ne _ (by omega)]
    · subst h; simp
    · obtain ⟨k, rfl⟩ : ∃ k, j = start + 1 + k := ⟨j - start - 1, by omega⟩
      have h1 : start + 1 + k - (start + 1) = k := by omega
      have h2 : start + 1 + k - start = k + 1 := by omega
      rw [if_pos (by omega), if_pos (by omega), h1, h2, List.getD_cons_succ,
        Vector.getElem_setIfInBounds_ne _ (by omega)]

/-- A register after LREG's loop: from memory up to V[x], as before above it. -/
theorem State.reg_loadRun (x j : Reg) :
    (s.loadRun x).reg j = if j ≤ x then s.readByte (s.i.toNat + j.val) else s.reg j := by
  simp only [State.reg, State.loadRun, getElem_loadRegs, Nat.zero_le, if_true, Nat.sub_zero, State.readBytes,
    Fin.le_def]
  split
  · rw [List.getD_eq_getElem _ _ (by simp; omega), Memory.getElem_readRun]; rfl
  · rw [List.getD_eq_default _ _ (by simp; omega)]

/-- The bytes SREG stores: V0 to V[x]. -/
@[simp] theorem State.length_regsUpTo (x : Reg) : (s.regsUpTo x).length = x.val + 1 := by
  simp [State.regsUpTo]

theorem State.getElem_regsUpTo (x : Reg) (j : Nat) (h : j < (s.regsUpTo x).length) :
    (s.regsUpTo x)[j] = s.reg ⟨j, by simp at h; omega⟩ := by
  simp [State.regsUpTo, State.reg]

@[simp] theorem length_decimalDigits (b : Byte) : (decimalDigits b).length = 3 := rfl

/-- A byte after a run of stores. -/
theorem State.readByte_storeBytes (base : Nat) (l : List Byte) (a : Nat) :
    (s.storeBytes base l).readByte a = if base ≤ a then l.getD (a - base) (s.readByte a) else s.readByte a :=
  Memory.read_writeRun _ _ _ _

/-- A byte outside a run of stores. -/
theorem State.readByte_storeBytes_outside {base a : Nat} {l : List Byte} (h : a < base ∨ base + l.length ≤ a) :
    (s.storeBytes base l).readByte a = s.readByte a :=
  Memory.read_writeRun_outside h

/-! ## The stack -/

/-- The entries after a push. -/
theorem State.stackEntry_push (w : Word) (j : Nat) (h : s.sp ≠ 16) :
    (s.push w).stackEntry j = if j = s.sp.val then w else s.stackEntry j := by
  have hlt : s.sp.val < 16 := by omega
  simp only [State.stackEntry, State.push_stack, Vector.getElem?_setIfInBounds, eq_comm (a := j)]
  split_ifs <;> simp_all

/-- The stack pointer after a push that is no overflow. -/
theorem State.sp_push (w : Word) (h : s.sp ≠ 16) : (s.push w).sp.val = s.sp.val + 1 := by
  have : s.sp.val < 16 := by omega
  rw [State.push_sp, Fin.val_add]; simp; omega

/-- The stack pointer after a pop that is no underflow. -/
theorem State.sp_pop (h : s.sp ≠ 0) : s.pop.sp.val = s.sp.val - 1 := by
  rw [State.pop_sp]; exact Fin.val_sub_one_of_ne_zero h

@[simp] theorem State.pop_stackEntry_top : s.top = s.stackEntry s.pop.sp.val := rfl

/-! ## The checks -/

theorem checkRead_eq_none (base len : Nat) : checkRead base len = none ↔ base + len ≤ 4096 := by
  simp [checkRead, memorySize]

theorem checkRead_eq_some (base len : Nat) (k : FaultKind) :
    checkRead base len = some k ↔ 4096 < base + len ∧ k = .memoryOutOfBounds := by
  simp [checkRead, memorySize, eq_comm]

theorem checkWrite_eq_none (base len : Nat) :
    checkWrite base len = none ↔ base + len ≤ 4096 ∧ 0x050 ≤ base := by
  unfold checkWrite memorySize fontEnd; split_ifs <;> simp <;> omega

theorem checkWrite_eq_some (base len : Nat) (k : FaultKind) :
    checkWrite base len = some k ↔ (4096 < base + len ∧ k = .memoryOutOfBounds) ∨
      (base + len ≤ 4096 ∧ base < 0x050 ∧ k = .fontAreaWrite) := by
  unfold checkWrite memorySize fontEnd
  split_ifs with h1 h2
  · have : ¬ base + len ≤ 4096 := by omega
    simp [h1, this, eq_comm]
  · have : ¬ 4096 < base + len := h1
    simp [h2, this, Nat.le_of_not_lt h1, eq_comm]
  · have : ¬ base < 0x050 := h2
    simp [h1, this]

theorem checkPush_eq_none : checkPush s = none ↔ s.sp ≠ 16 := by simp [checkPush]

theorem checkPop_eq_none : checkPop s = none ↔ s.sp ≠ 0 := by simp [checkPop]

theorem checkKey_eq_none (b : Byte) : checkKey b = none ↔ b.toNat ≤ 15 := by simp [checkKey]

theorem checkDigit_eq_none (b : Byte) : checkDigit b = none ↔ b.toNat ≤ 15 := by simp [checkDigit]

theorem checkIndex_eq_none (i : Word) (b : Byte) : checkIndex i b = none ↔ i.toNat + b.toNat ≤ 0xFFFF := by
  simp [checkIndex]

/-! ## What an instruction that checks first can answer -/

theorem checked_none {c : Option FaultKind} {s e : State} (h : c = none) : checked c s e = .next e := by
  subst h; rfl

theorem checked_some {c : Option FaultKind} {s e : State} {k : FaultKind} (h : c = some k) :
    checked c s e = .next (s.raiseFault k) := by
  subst h; rfl

/-- Everything `checked` can do: the fault raised in `s`, or the effect. -/
theorem checked_cases {c : Option FaultKind} {s e t : State} (h : checked c s e = .next t) :
    (∃ k, c = some k ∧ t = s.raiseFault k) ∨ (c = none ∧ t = e) := by
  cases c with
  | none => exact .inr ⟨rfl, by simpa [checked] using h.symm⟩
  | some k => exact .inl ⟨k, rfl, by simpa [checked] using h.symm⟩

theorem next_inj {s t : State} (h : (Host.Outcome.next s : Outcome) = .next t) : t = s := by
  cases h; rfl

end Sys2Proof.Machine
end

