-- ==== Sys2Proof/Laws/Exec.lean ====
section
/-! SUPPORT. Once for all instructions: an instruction is its check and then its effect. Whole-machine facts follow
from the fields of `effectOf`, without unfolding any meaning again. -/

namespace Sys2Proof.Machine

/-- The check an instruction makes before it writes; none where its rule raises no fault. -/
def guardOf : Instr → State → Option FaultKind
  | .ret, s => checkPop s
  | .call _, s => checkPush s
  | .draw _ _ n, s => checkRead s.i.toNat n.val
  | .skp x, s | .sknp x, s => checkKey (s.reg x)
  | .addi x, s => checkIndex s.i (s.reg x)
  | .font x, s => checkDigit (s.reg x)
  | .bcd _, s => checkWrite s.i.toNat 3
  | .sreg x, s => checkWrite s.i.toNat (x.val + 1)
  | .lreg x, s => checkRead s.i.toNat (x.val + 1)
  | _, _ => none

/-- What an instruction leaves when its check passes. -/
def effectOf : Instr → State → State
  | .cls, s => s.setDisplay blankScreen true
  | .ret, s => s.pop.setPc (s.top + 2)
  | .jmp nnn, s => s.setPc (addrOperand nnn)
  | .call nnn, s => (s.push s.fetchedFrom).setPc (addrOperand nnn)
  | .skeb x nn, s => s.skipIf (s.reg x == nn)
  | .skneb x nn, s => s.skipIf (s.reg x != nn)
  | .ske x y, s => s.skipIf (s.reg x == s.reg y)
  | .skne x y, s => s.skipIf (s.reg x != s.reg y)
  | .ldb x nn, s => s.setReg x nn
  | .addb x nn, s => s.setReg x (s.reg x + nn)
  | .ld x y, s => s.setReg x (s.reg y)
  | .or x y, s => s.setBitwise x (s.reg x ||| s.reg y)
  | .and x y, s => s.setBitwise x (s.reg x &&& s.reg y)
  | .xor x y, s => s.setBitwise x (s.reg x ^^^ s.reg y)
  | .add x y, s => s.setResultFlag x (s.reg x + s.reg y) (carryFlag (s.reg x) (s.reg y))
  | .sub x y, s => s.setResultFlag x (s.reg x - s.reg y) (noBorrowFlag (s.reg x) (s.reg y))
  | .subr x y, s => s.setResultFlag x (s.reg y - s.reg x) (noBorrowFlag (s.reg y) (s.reg x))
  | .shr x y, s => s.setShift x (s.shiftOperand x y >>> 1) (shrFlag (s.shiftOperand x y))
      (shrVF s.shiftVF (shrFlag (s.shiftOperand x y)) (s.shiftOperand x y >>> 1))
  | .shl x y, s => s.setShift x (s.shiftOperand x y <<< 1) (shlFlag (s.shiftOperand x y))
      (shlVF s.shiftVF (shlFlag (s.shiftOperand x y)) (s.shiftOperand x y <<< 1))
  | .ldi nnn, s => s.setI (addrOperand nnn)
  | .jmpz nnn, s => s.setPc (addrOperand nnn + byteOperand (s.reg (s.jumpRegister nnn)))
  | .rnd x nn, s => s.setRandom x nn (Config.freeByte s.draws)
  | .draw x y n, s =>
    s.setCanvas (drawSprite s.fb (s.reg x) (s.reg y) (s.readBytes s.i.toNat n.val) s.quirks.wrap)
  | .skp x, s => s.skipIf (s.keyDown (s.reg x).toNat)
  | .sknp x, s => s.skipIf (!s.keyDown (s.reg x).toNat)
  | .ldft x, s => s.setReg x s.dt
  | .ldk x, s =>
    if s.waiting then
      match s.released with
      | some k => s.captureKey x k
      | none => s.rewindPc
    else (s.setWait true s.released).rewindPc
  | .lddt x, s => s.setDT (s.reg x)
  | .ldst x, s => s.setST (s.reg x)
  | .addi x, s => s.setI (s.i + byteOperand (s.reg x))
  | .font x, s => s.setI (BitVec.ofNat 16 (5 * (s.reg x).toNat))
  | .bcd x, s => s.storeBytes s.i.toNat (decimalDigits (s.reg x))
  | .sreg x, s => (s.storeBytes s.i.toNat (s.regsUpTo x)).advanceIndex x
  | .lreg x, s => (s.loadRun x).advanceIndex x
  | .unrecognized _, s => s

/-- Every instruction is its check and then its effect. -/
theorem exec_eq (i : Instr) (s : State) : exec i s = checked (guardOf i s) s (effectOf i s) := by
  cases i
  case ldk x =>
    simp only [exec, execLdk, guardOf, effectOf, checked]
    split
    · cases s.released <;> rfl
    · rfl
  all_goals rfl

/-- An instruction whose check passes answers its effect. -/
theorem exec_of_guard {i : Instr} {s : State} (h : guardOf i s = none) : exec i s = .next (effectOf i s) := by
  rw [exec_eq, checked_none h]

/-- Everything an instruction can do: raise the fault its check names and nothing else, or its effect. -/
theorem exec_cases {i : Instr} {s t : State} (h : exec i s = .next t) :
    (∃ k, guardOf i s = some k ∧ t = s.raiseFault k) ∨ (guardOf i s = none ∧ t = effectOf i s) := by
  rw [exec_eq] at h; exact checked_cases h

/-- Everything a step can do while the core runs: the fetch fault, an instruction's fault with pc advanced, or the
fetched instruction's effect on the advanced state. -/
theorem step_cases {s t : State} (h : step s = .next t) : s.halt = none ∧
    ((s.canFetch = false ∧ t = s.raiseFault .fetchOutOfBounds) ∨
      (s.canFetch = true ∧ ∃ k, guardOf s.fetchInstr s.advancePc = some k ∧ t = s.advancePc.raiseFault k) ∨
      (s.canFetch = true ∧ guardOf s.fetchInstr s.advancePc = none ∧ t = effectOf s.fetchInstr s.advancePc)) := by
  cases hs : s.halt with
  | some k => simp [step, hs, haltedStep] at h
  | none =>
    simp only [step, hs] at h
    refine ⟨rfl, ?_⟩
    split at h
    · rename_i hf
      rcases exec_cases h with h | h
      · exact .inr (.inl ⟨hf, h⟩)
      · exact .inr (.inr ⟨hf, h⟩)
    · rename_i hf
      exact .inl ⟨by simpa using hf, next_inj h⟩

/-! ## The step relation: a state is a core state under parameters -/

@[simp] theorem CoreState.toCoreState_withParams (c : CoreState) (p : StepParams) :
    (c.withParams p).toCoreState = c := rfl

@[simp] theorem CoreState.toStepParams_withParams (c : CoreState) (p : StepParams) :
    (c.withParams p).toStepParams = p := rfl

@[simp] theorem State.withParams_toStepParams (s : State) : s.toCoreState.withParams s.toStepParams = s := rfl

/-- A step of the interface is a step of the relation. -/
theorem steps_of_step {s t : State} (h : step s = .next t) : Steps s.toStepParams s.toCoreState t.toCoreState :=
  ⟨t.toStepParams, h⟩

/-- The relation has at most one next core state under given parameters. -/
theorem Steps.unique {p : StepParams} {c c₁ c₂ : CoreState} (h₁ : Steps p c c₁) (h₂ : Steps p c c₂) : c₁ = c₂ := by
  obtain ⟨_, h₁⟩ := h₁
  obtain ⟨_, h₂⟩ := h₂
  exact congrArg State.toCoreState (next_inj (h₂.symm.trans h₁))

/-- What no effect writes. -/
@[simp] theorem effectOf_halt (i : Instr) (s : State) : (effectOf i s).halt = s.halt := by
  cases i <;> simp [effectOf]; split <;> try split
  all_goals rfl

@[simp] theorem effectOf_quirks (i : Instr) (s : State) : (effectOf i s).quirks = s.quirks := by
  cases i <;> simp [effectOf]; split <;> try split
  all_goals rfl

@[simp] theorem effectOf_shiftVF (i : Instr) (s : State) : (effectOf i s).shiftVF = s.shiftVF := by
  cases i <;> simp [effectOf]; split <;> try split
  all_goals rfl

@[simp] theorem effectOf_key (i : Instr) (s : State) : (effectOf i s).key = s.key := by
  cases i <;> simp [effectOf]; split <;> try split
  all_goals rfl

end Sys2Proof.Machine
end

