-- ==== Sys2Proof/Laws/PerInstr.lean ====
section
/-! SUPPORT. One family of per-instruction facts, EncodesItsRow: the word the encoder writes for a well-formed
instruction matches the row of that instruction in the opcode map (30_encoding.md R76) and no other row. -/

namespace Sys2Proof.Laws

open Sys2Proof

/-- The encoded word of a well-formed instruction matches the row of its mnemonic and no other; Unrecognized, whose
mnemonic no row has, matches none. -/
def EncodesItsRow.Statement (i : Instr) : Prop :=
  i.wellFormed = true → ∀ r ∈ opcodeMap, r.matchesWord (encode i) = true ↔ r.mnemonic = i.mnemonic

/-- A word whose bits under `m` are `v` matches the row `(m, v)` and no row that compares a common bit otherwise. -/
theorem matches_own_row {w m v : Word} {name : String} (h : w &&& m = v)
    (rows : ∀ r ∈ opcodeMap, if r.mnemonic = name then r.mask = m ∧ r.value = v else v &&& r.mask ≠ r.value &&& m) :
    ∀ r ∈ opcodeMap, r.matchesWord w = true ↔ r.mnemonic = name := by
  intro r hr
  have hrow := rows r hr
  simp only [OpcodeRow.matchesWord, beq_iff_eq]
  split at hrow
  · rename_i hn
    simp [hn, hrow.1, hrow.2, h]
  · rename_i hn
    refine iff_of_false (fun hw => hrow ?_) hn
    rw [← h, ← hw, BitVec.and_assoc, BitVec.and_assoc, BitVec.and_comm m]

theorem encodeAddr_mask (g : BitVec 4) (nnn : Addr12) : encodeAddr g nnn &&& 0xF000#16 = g.setWidth 16 <<< 12 := by
  rw [and_group, groupField_encodeAddr]

theorem encodeRegByte_mask (g : BitVec 4) (x : Reg) (nn : Byte) :
    encodeRegByte g x nn &&& 0xF000#16 = g.setWidth 16 <<< 12 := by
  rw [and_group, groupField_encodeRegByte]

theorem encodeRegByte_mask_low (g : BitVec 4) (x : Reg) (nn : Byte) :
    encodeRegByte g x nn &&& 0xF0FF#16 = (g.setWidth 16 <<< 12) ||| nn.setWidth 16 := by
  rw [and_group_low, groupField_encodeRegByte, nnField_encodeRegByte]

theorem encodeRegReg_mask (g : BitVec 4) (x y : Reg) (n : BitVec 4) :
    encodeRegReg g x y n &&& 0xF000#16 = g.setWidth 16 <<< 12 := by
  rw [and_group, groupField_encodeRegReg]

theorem encodeRegReg_mask_nibble (g : BitVec 4) (x y : Reg) (n : BitVec 4) :
    encodeRegReg g x y n &&& 0xF00F#16 = (g.setWidth 16 <<< 12) ||| n.setWidth 16 := by
  rw [and_group_nibble, groupField_encodeRegReg, nibbleField_encodeRegReg]

/-- A word of the unrecognized space matches no row. -/
theorem unrecognizedWord_matches_none {w : Word} (h : unrecognizedWord w = true) :
    ∀ r ∈ opcodeMap, r.matchesWord w = false := by
  intro r hr
  rw [Bool.eq_false_iff]
  intro hw
  simp only [OpcodeRow.matchesWord, beq_iff_eq] at hw
  simp only [opcodeMap, List.cons_append, List.nil_append, List.mem_cons, List.not_mem_nil, or_false] at hr
  rcases hr with rfl | rfl | rfl | rfl | rfl | rfl | rfl | rfl | rfl | rfl | rfl | rfl | rfl | rfl | rfl | rfl | rfl |
    rfl | rfl | rfl | rfl | rfl | rfl | rfl | rfl | rfl | rfl | rfl | rfl | rfl | rfl | rfl | rfl | rfl
  all_goals
    have hg : w.extractLsb' 12 4 = _ := groupField_of_mask hw (by decide)
    first
    | (have hn : w.extractLsb' 0 8 = _ := nnField_of_mask hw (by decide)
       simp [unrecognizedWord, hg, hn] at h)
    | (have hn : w.extractLsb' 0 4 = _ := nibbleField_of_mask hw (by decide)
       simp [unrecognizedWord, hg, hn] at h)
    | simp [unrecognizedWord, hg] at h

theorem EncodesItsRow.cls : EncodesItsRow.Statement .cls :=
  fun _ => matches_own_row (m := 0xF0FF#16) (v := 0x00E0#16) (name := "CLS") (by decide) (by decide)

theorem EncodesItsRow.ret : EncodesItsRow.Statement .ret :=
  fun _ => matches_own_row (m := 0xF0FF#16) (v := 0x00EE#16) (name := "RET") (by decide) (by decide)

theorem EncodesItsRow.jmp (nnn : Addr12) : EncodesItsRow.Statement (.jmp nnn) :=
  fun _ => matches_own_row (m := 0xF000#16) (v := 0x1000#16) (name := "JMP") (encodeAddr_mask _ _) (by decide)

theorem EncodesItsRow.call (nnn : Addr12) : EncodesItsRow.Statement (.call nnn) :=
  fun _ => matches_own_row (m := 0xF000#16) (v := 0x2000#16) (name := "CALL") (encodeAddr_mask _ _) (by decide)

theorem EncodesItsRow.skeb (x : Reg) (nn : Byte) : EncodesItsRow.Statement (.skeb x nn) :=
  fun _ => matches_own_row (m := 0xF000#16) (v := 0x3000#16) (name := "SKEB") (encodeRegByte_mask _ _ _) (by decide)

theorem EncodesItsRow.skneb (x : Reg) (nn : Byte) : EncodesItsRow.Statement (.skneb x nn) :=
  fun _ => matches_own_row (m := 0xF000#16) (v := 0x4000#16) (name := "SKNEB") (encodeRegByte_mask _ _ _) (by decide)

theorem EncodesItsRow.ske (x y : Reg) : EncodesItsRow.Statement (.ske x y) :=
  fun _ => matches_own_row (m := 0xF00F#16) (v := 0x5000#16) (name := "SKE") (encodeRegReg_mask_nibble _ _ _ _) (by decide)

theorem EncodesItsRow.skne (x y : Reg) : EncodesItsRow.Statement (.skne x y) :=
  fun _ => matches_own_row (m := 0xF00F#16) (v := 0x9000#16) (name := "SKNE") (encodeRegReg_mask_nibble _ _ _ _) (by decide)

theorem EncodesItsRow.ldb (x : Reg) (nn : Byte) : EncodesItsRow.Statement (.ldb x nn) :=
  fun _ => matches_own_row (m := 0xF000#16) (v := 0x6000#16) (name := "LDB") (encodeRegByte_mask _ _ _) (by decide)

theorem EncodesItsRow.addb (x : Reg) (nn : Byte) : EncodesItsRow.Statement (.addb x nn) :=
  fun _ => matches_own_row (m := 0xF000#16) (v := 0x7000#16) (name := "ADDB") (encodeRegByte_mask _ _ _) (by decide)

theorem EncodesItsRow.ld (x y : Reg) : EncodesItsRow.Statement (.ld x y) :=
  fun _ => matches_own_row (m := 0xF00F#16) (v := 0x8000#16) (name := "LD") (encodeRegReg_mask_nibble _ _ _ _) (by decide)

theorem EncodesItsRow.or (x y : Reg) : EncodesItsRow.Statement (.or x y) :=
  fun _ => matches_own_row (m := 0xF00F#16) (v := 0x8001#16) (name := "OR") (encodeRegReg_mask_nibble _ _ _ _) (by decide)

theorem EncodesItsRow.and (x y : Reg) : EncodesItsRow.Statement (.and x y) :=
  fun _ => matches_own_row (m := 0xF00F#16) (v := 0x8002#16) (name := "AND") (encodeRegReg_mask_nibble _ _ _ _) (by decide)

theorem EncodesItsRow.xor (x y : Reg) : EncodesItsRow.Statement (.xor x y) :=
  fun _ => matches_own_row (m := 0xF00F#16) (v := 0x8003#16) (name := "XOR") (encodeRegReg_mask_nibble _ _ _ _) (by decide)

theorem EncodesItsRow.add (x y : Reg) : EncodesItsRow.Statement (.add x y) :=
  fun _ => matches_own_row (m := 0xF00F#16) (v := 0x8004#16) (name := "ADD") (encodeRegReg_mask_nibble _ _ _ _) (by decide)

theorem EncodesItsRow.sub (x y : Reg) : EncodesItsRow.Statement (.sub x y) :=
  fun _ => matches_own_row (m := 0xF00F#16) (v := 0x8005#16) (name := "SUB") (encodeRegReg_mask_nibble _ _ _ _) (by decide)

theorem EncodesItsRow.subr (x y : Reg) : EncodesItsRow.Statement (.subr x y) :=
  fun _ => matches_own_row (m := 0xF00F#16) (v := 0x8007#16) (name := "SUBR") (encodeRegReg_mask_nibble _ _ _ _) (by decide)

theorem EncodesItsRow.shr (x y : Reg) : EncodesItsRow.Statement (.shr x y) :=
  fun _ => matches_own_row (m := 0xF00F#16) (v := 0x8006#16) (name := "SHR") (encodeRegReg_mask_nibble _ _ _ _) (by decide)

theorem EncodesItsRow.shl (x y : Reg) : EncodesItsRow.Statement (.shl x y) :=
  fun _ => matches_own_row (m := 0xF00F#16) (v := 0x800E#16) (name := "SHL") (encodeRegReg_mask_nibble _ _ _ _) (by decide)

theorem EncodesItsRow.ldi (nnn : Addr12) : EncodesItsRow.Statement (.ldi nnn) :=
  fun _ => matches_own_row (m := 0xF000#16) (v := 0xA000#16) (name := "LDI") (encodeAddr_mask _ _) (by decide)

theorem EncodesItsRow.jmpz (nnn : Addr12) : EncodesItsRow.Statement (.jmpz nnn) :=
  fun _ => matches_own_row (m := 0xF000#16) (v := 0xB000#16) (name := "JMPZ") (encodeAddr_mask _ _) (by decide)

theorem EncodesItsRow.rnd (x : Reg) (nn : Byte) : EncodesItsRow.Statement (.rnd x nn) :=
  fun _ => matches_own_row (m := 0xF000#16) (v := 0xC000#16) (name := "RND") (encodeRegByte_mask _ _ _) (by decide)

theorem EncodesItsRow.draw (x y : Reg) (n : Fin 16) : EncodesItsRow.Statement (.draw x y n) :=
  fun _ => matches_own_row (m := 0xF000#16) (v := 0xD000#16) (name := "DRAW") (encodeRegReg_mask _ _ _ _) (by decide)

theorem EncodesItsRow.skp (x : Reg) : EncodesItsRow.Statement (.skp x) :=
  fun _ => matches_own_row (m := 0xF0FF#16) (v := 0xE09E#16) (name := "SKP") (encodeRegByte_mask_low _ _ _) (by decide)

theorem EncodesItsRow.sknp (x : Reg) : EncodesItsRow.Statement (.sknp x) :=
  fun _ => matches_own_row (m := 0xF0FF#16) (v := 0xE0A1#16) (name := "SKNP") (encodeRegByte_mask_low _ _ _) (by decide)

theorem EncodesItsRow.ldft (x : Reg) : EncodesItsRow.Statement (.ldft x) :=
  fun _ => matches_own_row (m := 0xF0FF#16) (v := 0xF007#16) (name := "LDFT") (encodeRegByte_mask_low _ _ _) (by decide)

theorem EncodesItsRow.ldk (x : Reg) : EncodesItsRow.Statement (.ldk x) :=
  fun _ => matches_own_row (m := 0xF0FF#16) (v := 0xF00A#16) (name := "LDK") (encodeRegByte_mask_low _ _ _) (by decide)

theorem EncodesItsRow.lddt (x : Reg) : EncodesItsRow.Statement (.lddt x) :=
  fun _ => matches_own_row (m := 0xF0FF#16) (v := 0xF015#16) (name := "LDDT") (encodeRegByte_mask_low _ _ _) (by decide)

theorem EncodesItsRow.ldst (x : Reg) : EncodesItsRow.Statement (.ldst x) :=
  fun _ => matches_own_row (m := 0xF0FF#16) (v := 0xF018#16) (name := "LDST") (encodeRegByte_mask_low _ _ _) (by decide)

theorem EncodesItsRow.addi (x : Reg) : EncodesItsRow.Statement (.addi x) :=
  fun _ => matches_own_row (m := 0xF0FF#16) (v := 0xF01E#16) (name := "ADDI") (encodeRegByte_mask_low _ _ _) (by decide)

theorem EncodesItsRow.font (x : Reg) : EncodesItsRow.Statement (.font x) :=
  fun _ => matches_own_row (m := 0xF0FF#16) (v := 0xF029#16) (name := "FONT") (encodeRegByte_mask_low _ _ _) (by decide)

theorem EncodesItsRow.bcd (x : Reg) : EncodesItsRow.Statement (.bcd x) :=
  fun _ => matches_own_row (m := 0xF0FF#16) (v := 0xF033#16) (name := "BCD") (encodeRegByte_mask_low _ _ _) (by decide)

theorem EncodesItsRow.sreg (x : Reg) : EncodesItsRow.Statement (.sreg x) :=
  fun _ => matches_own_row (m := 0xF0FF#16) (v := 0xF055#16) (name := "SREG") (encodeRegByte_mask_low _ _ _) (by decide)

theorem EncodesItsRow.lreg (x : Reg) : EncodesItsRow.Statement (.lreg x) :=
  fun _ => matches_own_row (m := 0xF0FF#16) (v := 0xF065#16) (name := "LREG") (encodeRegByte_mask_low _ _ _) (by decide)

theorem EncodesItsRow.unrecognized (raw : Word) : EncodesItsRow.Statement (.unrecognized raw) := by
  intro h r hr
  have names : ∀ r ∈ opcodeMap, r.mnemonic ≠ "Unrecognized" := by decide
  exact iff_of_false (by rw [encode, unrecognizedWord_matches_none h r hr]; decide) (names r hr)

end Sys2Proof.Laws
end

