-- ==== Sys2Proof/Tests/Slice0.lean ====
section
/-! SUPPORT. The tests. Every expected value is taken from the spec: the words from 30_encoding.md R76 and
95_test_vectors.md section 2.1, the states after a step from 95_test_vectors.md sections 1 and 2, each named at its
test. Then one witness for the hypotheses of each statement, at the boundary of its ranges. -/

namespace Sys2Proof.Tests

open Sys2Proof Sys2Proof.Machine Sys2Proof.Says

/-! ## Well-formedness: an ill-formed term for each check is refused -/

theorem test_wf_group0 : (Instr.unrecognized 0x00E0).wellFormed = false ∧
    (Instr.unrecognized 0x0FEE).wellFormed = false ∧ (Instr.unrecognized 0x0000).wellFormed = true := by decide

theorem test_wf_group5 : (Instr.unrecognized 0x5120).wellFormed = false ∧
    (Instr.unrecognized 0x5121).wellFormed = true := by decide

theorem test_wf_group8 : (Instr.unrecognized 0x8AB7).wellFormed = false ∧
    (Instr.unrecognized 0x8ABE).wellFormed = false ∧ (Instr.unrecognized 0x8AB8).wellFormed = true ∧
    (Instr.unrecognized 0x8ABF).wellFormed = true := by decide

theorem test_wf_group9 : (Instr.unrecognized 0x9120).wellFormed = false ∧
    (Instr.unrecognized 0x9121).wellFormed = true := by decide

theorem test_wf_groupE : (Instr.unrecognized 0xE19E).wellFormed = false ∧
    (Instr.unrecognized 0xE1A1).wellFormed = false ∧ (Instr.unrecognized 0xE19F).wellFormed = true := by decide

theorem test_wf_groupF : (Instr.unrecognized 0xF165).wellFormed = false ∧
    (Instr.unrecognized 0xF10A).wellFormed = false ∧ (Instr.unrecognized 0xF175).wellFormed = true := by decide

/-- The groups without a second selector hold no unrecognized word (R83, R84). -/
theorem test_wf_full_groups :
    ([0x1000, 0x2FFF, 0x3000, 0x4000, 0x6000, 0x7000, 0xA000, 0xB000, 0xC000, 0xD000] : List Word).all
      (fun w => !(Instr.unrecognized w).wellFormed) = true := by decide

/-! ## Decoding: words written out from the encodings of R76 and 95_test_vectors.md section 2.1 -/

/-- 0000 ---- 1110 0000 and 0000 ---- 1110 1110; bits 11 to 8 are not compared (R77). -/
theorem test_decode_group0 : decode 0b0000_0000_1110_0000 = .cls ∧ decode 0x0AE0 = .cls ∧
    decode 0b0000_0000_1110_1110 = .ret ∧ decode 0x0000 = .unrecognized 0x0000 ∧
    decode 0x0123 = .unrecognized 0x0123 ∧ decode 0x00E1 = .unrecognized 0x00E1 := by decide

theorem test_decode_addresses : decode 0b0001_1010_1011_1100 = .jmp 0xABC ∧ decode 0x2FFF = .call 0xFFF ∧
    decode 0xA000 = .ldi 0x000 ∧ decode 0xB123 = .jmpz 0x123 := by decide

theorem test_decode_immediates : decode 0b0011_1010_0111_1111 = .skeb 10 0x7F ∧ decode 0x4000 = .skneb 0 0x00 ∧
    decode 0x6F00 = .ldb 15 0x00 ∧ decode 0x7FFF = .addb 15 0xFF ∧ decode 0xC0FF = .rnd 0 0xFF := by decide

theorem test_decode_group5 : decode 0b0101_0001_0010_0000 = .ske 1 2 ∧
    decode 0x512F = .unrecognized 0x512F := by decide

theorem test_decode_group8 : decode 0x8AB0 = .ld 10 11 ∧ decode 0x8AB1 = .or 10 11 ∧ decode 0x8AB2 = .and 10 11 ∧
    decode 0x8AB3 = .xor 10 11 ∧ decode 0x8AB4 = .add 10 11 ∧ decode 0b1000_1010_1011_0101 = .sub 10 11 ∧
    decode 0x8AB6 = .shr 10 11 ∧ decode 0x8AB7 = .subr 10 11 ∧ decode 0x8AB8 = .unrecognized 0x8AB8 ∧
    decode 0x8ABD = .unrecognized 0x8ABD ∧ decode 0x8ABE = .shl 10 11 ∧
    decode 0x8ABF = .unrecognized 0x8ABF := by decide

theorem test_decode_group9 : decode 0b1001_0001_0010_0000 = .skne 1 2 ∧
    decode 0x9121 = .unrecognized 0x9121 := by decide

theorem test_decode_groupD : decode 0xD000 = .draw 0 0 0 ∧ decode 0b1101_0001_0010_0101 = .draw 1 2 5 := by decide

theorem test_decode_groupE : decode 0b1110_0001_1001_1110 = .skp 1 ∧ decode 0xE1A1 = .sknp 1 ∧
    decode 0xE19F = .unrecognized 0xE19F := by decide

theorem test_decode_groupF : decode 0b1111_0001_0000_0111 = .ldft 1 ∧ decode 0xF10A = .ldk 1 ∧
    decode 0xF115 = .lddt 1 ∧ decode 0xF118 = .ldst 1 ∧ decode 0xF11E = .addi 1 ∧ decode 0xF129 = .font 1 ∧
    decode 0xF133 = .bcd 1 ∧ decode 0xF155 = .sreg 1 ∧ decode 0xF165 = .lreg 1 ∧
    decode 0xF100 = .unrecognized 0xF100 ∧ decode 0xF175 = .unrecognized 0xF175 := by decide

/-- The byte at the lower address holds bits 15 to 8 (R52); a lone byte is refused by name. -/
theorem test_decode_bytes : decodeBytes [0x1A, 0xBC, 0x77] = .ok (.jmp 0xABC, [0x77]) ∧
    decodeBytes [0x1A] = .error (.truncated 1) ∧ decodeTableWord 16 0x1ABC = some (.jmp 0xABC) ∧
    decodeTableWord 16 0x0000 = some (.unrecognized 0) ∧
    decodeTableWord 24 0x10000 = none := by decide

/-! ## One step: the vectors of 95_test_vectors.md. A test starts from the state after reset with the registers and
fields its setup names, and the word under test stored at pc = 0x200. -/

/-- The outcome is the next state `t`. -/
def nextIs (o : Outcome) (t : State) : Bool :=
  match o with
  | .next u => decide (u = t)
  | .fault _ => false
  | .refused _ => false

theorem eq_next {o : Outcome} {t : State} (h : nextIs o t = true) : o = .next t := by
  cases o <;> simp_all [nextIs]

/-- The reset state with registers set. -/
def withRegs (l : List (Reg × Byte)) : State := l.foldl (fun s p => s.setReg p.1 p.2) State.reset

/-- The reset state with registers, I and bytes from 0x300 set. -/
def withBytes (l : List (Reg × Byte)) (bytes : List Byte) : State :=
  ((withRegs l).setI 0x300).storeBytes 0x300 bytes

/-- One step on the word `w`. -/
def run (s : State) (w : Nat) : State := (s.withFetchWord 16 w).stepped

/-- The state with one quirk on, or with another SHIFT_VF. -/
def vfResetOn (s : State) : State := { s with quirks := { s.quirks with vfReset := true } }
def shiftingOn (s : State) : State := { s with quirks := { s.quirks with shifting := true } }
def jumpingOn (s : State) : State := { s with quirks := { s.quirks with jumping := true } }
def wrapOn (s : State) : State := { s with quirks := { s.quirks with wrap := true } }
def memoryOn (s : State) : State := { s with quirks := { s.quirks with memory := true } }
def shiftVFAs (p : ShiftVF) (s : State) : State := { s with shiftVF := p }

/-! ### Section 2.2 -/

theorem test_step_unrecognized : (run State.reset 0x0000).pc = 0x202 ∧ (run State.reset 0x0000).halt = none := by
  decide

theorem test_step_odd_pc : (run (State.reset.setPc 0x201) 0x6005).reg 0 = 5 ∧
    (run (State.reset.setPc 0x201) 0x6005).pc = 0x203 := by decide

theorem test_step_last_word : (run (State.reset.setPc 0xFFE) 0x00E0).pc = 0x1000 ∧
    (run (State.reset.setPc 0xFFE) 0x00E0).dirty = true := by decide

theorem test_step_fetch_fault : (State.reset.setPc 0xFFF).stepped.halt = some .fetchOutOfBounds ∧
    (State.reset.setPc 0xFFF).stepped.pc = 0xFFF := by decide

theorem test_step_skip_past_end : (run (State.reset.setPc 0xFFE) 0x3000).pc = 0x1002 := by decide

/-! ### Section 2.3: display -/

theorem test_cls : (run { State.reset with fb := Screen.toggle State.reset.fb (63, 31) } 0x00E0).pixel (63, 31) = false ∧
    (run State.reset 0x00E0).dirty = true := by decide

/-- MEM[0x300] = 0x80 at (0,0): bit 7 is leftmost. -/
theorem test_draw_one_pixel : (run (withBytes [] [0x80]) 0xD011).pixel (0, 0) = true ∧
    (run (withBytes [] [0x80]) 0xD011).pixel (1, 0) = false ∧ (run (withBytes [] [0x80]) 0xD011).reg 15 = 0 := by
  decide

/-- E6: 0xFF at x = 60, with wrap off and with wrap on. -/
theorem test_draw_clip_and_wrap : (run (withBytes [(0, 60)] [0xFF]) 0xD011).pixel (63, 0) = true ∧
    (run (withBytes [(0, 60)] [0xFF]) 0xD011).pixel (0, 0) = false ∧
    (run (wrapOn (withBytes [(0, 60)] [0xFF])) 0xD011).pixel (3, 0) = true := by decide

/-! ### Section 2.4: control flow -/

theorem test_jmp : (run State.reset 0x1ABC).pc = 0xABC := by decide

theorem test_call : (run State.reset 0x2400).stackEntry 0 = 0x200 ∧ (run State.reset 0x2400).sp = 1 ∧
    (run State.reset 0x2400).pc = 0x400 := by decide

theorem test_call_overflow : (run { State.reset with sp := 16 } 0x2400).halt = some .stackOverflow ∧
    (run { State.reset with sp := 16 } 0x2400).pc = 0x202 := by decide

theorem test_ret : (run ((State.reset.push 0x200).setPc 0x400) 0x00EE).pc = 0x202 ∧
    (run ((State.reset.push 0x200).setPc 0x400) 0x00EE).sp = 0 := by decide

theorem test_ret_underflow : (run State.reset 0x00EE).halt = some .stackUnderflow ∧
    (run State.reset 0x00EE).pc = 0x202 := by decide

theorem test_skeb : (run (withRegs [(1, 0x42)]) 0x3142).pc = 0x204 ∧
    (run (withRegs [(1, 0x41)]) 0x3142).pc = 0x202 := by decide

theorem test_skneb : (run (withRegs [(1, 0x42)]) 0x4142).pc = 0x202 ∧
    (run (withRegs [(1, 0x41)]) 0x4142).pc = 0x204 := by decide

theorem test_ske : (run (withRegs [(1, 9), (2, 9)]) 0x5120).pc = 0x204 ∧
    (run (withRegs [(1, 9), (2, 8)]) 0x5120).pc = 0x202 := by decide

theorem test_skne : (run (withRegs [(1, 9), (2, 8)]) 0x9120).pc = 0x204 ∧
    (run (withRegs [(1, 9), (2, 9)]) 0x9120).pc = 0x202 := by decide

theorem test_jmpz : (run (withRegs [(0, 0x10), (3, 0x04)]) 0xB300).pc = 0x310 ∧
    (run (jumpingOn (withRegs [(0, 0x10), (3, 0x04)])) 0xB300).pc = 0x304 := by decide

theorem test_jmpz_past_memory : (run (withRegs [(0, 0xFF)]) 0xBFFF).pc = 0x10FE := by decide

/-! ### Section 2.5: ALU -/

theorem test_ldb : (run State.reset 0x6A42).reg 10 = 0x42 := by decide

theorem test_addb : (run (withRegs [(10, 0x02), (15, 0x55)]) 0x7AFF).reg 10 = 0x01 ∧
    (run (withRegs [(10, 0x02), (15, 0x55)]) 0x7AFF).reg 15 = 0x55 := by decide

theorem test_ld : (run (withRegs [(2, 0x33)]) 0x8120).reg 1 = 0x33 := by decide

theorem test_or : (run (withRegs [(1, 0xF0), (2, 0x0F), (15, 7)]) 0x8121).reg 1 = 0xFF ∧
    (run (withRegs [(1, 0xF0), (2, 0x0F), (15, 7)]) 0x8121).reg 15 = 7 := by decide

theorem test_or_vf_reset : (run (vfResetOn (withRegs [(1, 0xF0), (2, 0x0F), (15, 7)])) 0x8121).reg 15 = 0 := by decide

theorem test_and : (run (withRegs [(1, 0xF0), (2, 0x3C)]) 0x8122).reg 1 = 0x30 := by decide

theorem test_xor : (run (withRegs [(1, 0xFF), (2, 0x0F)]) 0x8123).reg 1 = 0xF0 := by decide

/-- V1 = 0x0F, vf_reset on, 8F13: the reset of VF is written last. -/
theorem test_xor_into_vf : (run (vfResetOn (withRegs [(1, 0x0F)])) 0x8F13).reg 15 = 0 := by decide

/-- E2. -/
theorem test_add : (run (withRegs [(1, 0xFF), (2, 0x01)]) 0x8124).reg 1 = 0x00 ∧
    (run (withRegs [(1, 0xFF), (2, 0x01)]) 0x8124).reg 15 = 1 := by decide

theorem test_add_into_vf : (run (withRegs [(15, 0xF0), (1, 0x20)]) 0x8F14).reg 15 = 1 ∧
    (run (withRegs [(1, 0x10), (15, 0xF0)]) 0x81F4).reg 1 = 0 := by decide

/-- E3, and equal operands. -/
theorem test_sub : (run (withRegs [(1, 0x01), (2, 0x02)]) 0x8125).reg 1 = 0xFF ∧
    (run (withRegs [(1, 0x01), (2, 0x02)]) 0x8125).reg 15 = 0 ∧
    (run (withRegs [(1, 0x05), (2, 0x05)]) 0x8125).reg 15 = 1 := by decide

theorem test_sub_into_vf : (run (withRegs [(15, 0x05), (1, 0x03)]) 0x8F15).reg 15 = 1 := by decide

theorem test_subr : (run (withRegs [(1, 0x01), (2, 0x03)]) 0x8127).reg 1 = 0x02 ∧
    (run (withRegs [(1, 0x01), (2, 0x03)]) 0x8127).reg 15 = 1 ∧
    (run (withRegs [(1, 0x02), (2, 0x01)]) 0x8127).reg 1 = 0xFF := by decide

/-- E4: with shifting off V[y] is not read, with it on it is. -/
theorem test_shr : (run (withRegs [(1, 0x05), (2, 0x80)]) 0x8126).reg 1 = 0x02 ∧
    (run (withRegs [(1, 0x05), (2, 0x80)]) 0x8126).reg 15 = 1 ∧
    (run (shiftingOn (withRegs [(1, 0x05), (2, 0x80)])) 0x8126).reg 1 = 0x40 := by decide

/-- VF = 0x02, 8F06: 0x00 (FlagLast), 0x01 (ResultLast), 0x00 (InPlace). -/
theorem test_shr_of_vf : (run (shiftVFAs .flagLast (withRegs [(15, 0x02)])) 0x8F06).reg 15 = 0 ∧
    (run (shiftVFAs .resultLast (withRegs [(15, 0x02)])) 0x8F06).reg 15 = 1 ∧
    (run (shiftVFAs .inPlace (withRegs [(15, 0x03)])) 0x8F06).reg 15 = 0 := by decide

theorem test_shl : (run (withRegs [(1, 0x81)]) 0x812E).reg 1 = 0x02 ∧
    (run (withRegs [(1, 0x81)]) 0x812E).reg 15 = 1 ∧
    (run (shiftingOn (withRegs [(2, 0x40)])) 0x812E).reg 1 = 0x80 := by decide

/-- VF = 0x81 and 0x41, 8F0E. -/
theorem test_shl_of_vf : (run (shiftVFAs .flagLast (withRegs [(15, 0x81)])) 0x8F0E).reg 15 = 1 ∧
    (run (shiftVFAs .resultLast (withRegs [(15, 0x41)])) 0x8F0E).reg 15 = 0x82 ∧
    (run (shiftVFAs .inPlace (withRegs [(15, 0x81)])) 0x8F0E).reg 15 = 2 := by decide

/-- Any draw with nn = 0 (the draw itself is a free value). -/
theorem test_rnd_masked : (execRnd 1 0x00 State.reset) = .next ((State.reset.setReg 1 0x00).nextDraw) := by
  simp [execRnd, State.setRandom]

/-! ### Section 2.6: index and memory -/

theorem test_ldi : (run State.reset 0xA123).i = 0x123 := by decide

theorem test_addi : (run ((withRegs [(1, 1), (15, 9)]).setI 0xFFF) 0xF11E).i = 0x1000 ∧
    (run ((withRegs [(1, 1), (15, 9)]).setI 0xFFF) 0xF11E).reg 15 = 9 := by decide

theorem test_addi_overflow : (run ((withRegs [(1, 1)]).setI 0xFFFF) 0xF11E).halt = some .indexOverflow ∧
    (run ((withRegs [(1, 1)]).setI 0xFFFF) 0xF11E).i = 0xFFFF := by decide

theorem test_font : (run (withRegs [(1, 0x0A)]) 0xF129).i = 0x032 := by decide

theorem test_font_fault : (run (withRegs [(1, 0x10)]) 0xF129).halt = some .invalidFontDigit := by decide

/-- I = 0xFFD, V0 = 123: the last three bytes of memory. -/
theorem test_bcd : (run ((withRegs [(0, 123)]).setI 0xFFD) 0xF033).readBytes 0xFFD 3 = [1, 2, 3] ∧
    (run ((withRegs [(0, 255)]).setI 0x050) 0xF033).readBytes 0x050 3 = [2, 5, 5] := by decide

theorem test_bcd_faults : (run (State.reset.setI 0xFFE) 0xF033).halt = some .memoryOutOfBounds ∧
    (run (State.reset.setI 0x04E) 0xF033).halt = some .fontAreaWrite := by decide

theorem test_sreg : (run (withBytes [(0, 1), (1, 2), (2, 3)] []) 0xF255).readBytes 0x300 3 = [1, 2, 3] ∧
    (run (withBytes [(0, 1), (1, 2), (2, 3)] []) 0xF255).i = 0x300 ∧
    (run (memoryOn (withBytes [(0, 1), (1, 2), (2, 3)] [])) 0xF255).i = 0x303 := by decide

theorem test_sreg_faults : (run (State.reset.setI 0xFF1) 0xFF55).halt = some .memoryOutOfBounds ∧
    (run State.reset 0xF255).halt = some .fontAreaWrite := by decide

theorem test_lreg : (run (memoryOn (withBytes [] [0x11, 0x22])) 0xF165).reg 1 = 0x22 ∧
    (run (memoryOn (withBytes [] [0x11, 0x22])) 0xF165).i = 0x302 := by decide

/-- The font may be read: the glyph "0". -/
theorem test_lreg_font : (run State.reset 0xF265).reg 0 = 0xF0 ∧ (run State.reset 0xF265).reg 2 = 0x90 := by decide

/-! ### Section 2.7: timers and keypad -/

theorem test_lddt : (run (withRegs [(1, 0x3C)]) 0xF115).dt = 0x3C := by decide

theorem test_ldst : (run (withRegs [(1, 0x05)]) 0xF118).st = 0x05 := by decide

theorem test_ldft : (run (State.reset.setDT 0x21) 0xF107).reg 1 = 0x21 := by decide

theorem test_tick : (State.reset.setDT 2).tick.dt = 1 ∧ (State.reset.setST 1).tick.st = 0 ∧
    (State.reset.setST 1).tick.dt = 0 := by decide

theorem test_skp : (run ((withRegs [(1, 7)]).keyPressed 7) 0xE19E).pc = 0x204 ∧
    (run (withRegs [(1, 7)]) 0xE19E).pc = 0x202 := by decide

theorem test_sknp : (run (withRegs [(1, 7)]) 0xE1A1).pc = 0x204 ∧
    (run ((withRegs [(1, 7)]).keyPressed 7) 0xE1A1).pc = 0x202 := by decide

theorem test_key_faults : (run (withRegs [(1, 0x10)]) 0xE19E).halt = some .invalidKey ∧
    (run (withRegs [(1, 0x10)]) 0xE1A1).halt = some .invalidKey ∧
    (State.reset.keyPressed 16).halt = some .hostKeyIndex := by decide

/-- E7, its first step: the wait is armed and pc is unchanged. -/
theorem test_ldk_arms : (run State.reset 0xF10A).pc = 0x200 ∧ (run State.reset 0xF10A).waiting = true := by decide

/-- E7, its last step, after keyReleased(7). -/
theorem test_ldk_captures : (run ((State.reset.setWait true none).keyReleased 7) 0xF10A).reg 1 = 7 ∧
    (run ((State.reset.setWait true none).keyReleased 7) 0xF10A).waiting = false ∧
    (run ((State.reset.setWait true none).keyReleased 7) 0xF10A).pc = 0x202 := by decide

theorem test_release_while_idle : (State.reset.keyReleased 4).released = none ∧
    ((State.reset.setWait true none).keyReleased 2).released = some 2 := by decide

/-! ### Section 2.9 and the fixed names -/

/-- 3584 bytes are refused, 3583 load. -/
theorem test_load_limit : (load (List.replicate 3584 0x12) State.reset.quirks).isOk = false ∧
    (load (List.replicate 3583 0x12) State.reset.quirks).isOk = true := by
  simp only [load, programOrigin, memorySize, List.length_replicate]; decide

theorem test_load_bytes :
    (load [0x60, 0x05] State.reset.quirks).toOption.map (fun s => s.readBytes 0x1FF 4) = some [0, 0x60, 0x05, 0] := by
  decide

/-- The launch parameters FONT, RESET_V and INIT_MEM (R33, R42, decisions D7 and D8). -/
theorem test_load_parameters :
    (load [0x60] State.reset.quirks
      { font := Vector.replicate 80 0x11, resetV := Vector.replicate 16 9, initMem := [(0x050, 5), (0x200, 6)] }).toOption.map
        (fun s => (s.readBytes 0x04F 2, s.readByte 0x200, s.reg 15)) = some ([0x11, 5], 0x60, 9) := by
  decide +kernel

theorem test_fault_codes : FaultKind.code .fetchOutOfBounds = 1 ∧ FaultKind.code .memoryOutOfBounds = 4 ∧
    FaultKind.code .hostKeyIndex = 9 := by decide

/-- The reset memory is in the canonical form, and a write that restores the first contents leaves no entry. -/
theorem test_memory_form : State.reset.mem.wf = true ∧
    ((State.reset.mem.write 0x300 7).write 0x200 1).wf = true ∧
    (State.reset.mem.write 0x300 7).write 0x300 0 = State.reset.mem := by decide

/-! ## Witnesses: for each statement with hypotheses, values that meet them together, at the ends of their ranges -/

theorem witness_RowsDecodeWithTheirOperands : (∀ r ∈ opcodeMap, r.value &&& r.mask = r.value) ∧
    (0x0FE0 : Word) &&& 0xF0FF = 0x00E0 ∧ (0xFFFF : Word) &&& 0xF000 ≠ 0xD000 ∧ (0xDFFF : Word) &&& 0xF000 = 0xD000 := by
  decide

theorem witness_OpcodeMapIsUnambiguous : (∃ r ∈ opcodeMap, r.matchesWord 0x8AB5 = true) ∧
    (∀ r ∈ opcodeMap, r.matchesWord 0x8AB8 = false) := by decide

theorem witness_UnrecognizedWordsAreNoOps : decode 0xF1FF = .unrecognized 0xF1FF := by decide

theorem witness_DecodeEncodeRoundTrip : (Instr.unrecognized 0x5121).wellFormed = true ∧
    (Instr.draw 15 15 15).wellFormed = true := by decide

theorem witness_StepRunsTheDecodedInstruction :
    let s := (State.reset.setPc 0xFFE).withFetchWord 16 0x1ABC
    s.halt = none ∧ s.pc.toNat + 1 ≤ 0xFFF ∧
      decode (((s.readByte s.pc.toNat).setWidth 16 <<< 8) ||| (s.readByte (s.pc.toNat + 1)).setWidth 16) = .jmp 0xABC := by
  decide

theorem witness_FetchFaultsAndHaltedSteps :
    (let s := State.reset.setPc 0xFFF
     s.halt = none ∧ s.pc.toNat + 1 > 0xFFF) ∧
    (State.reset.raiseFault .invalidKey).halt = some .invalidKey := by decide

theorem witness_FaultsAreThoseOfTheTable : State.reset.halt = none := by decide

theorem witness_FaultsArePrecise :
    step State.reset = .next (State.reset.setPc 0x202) ∧
    step (State.reset.setPc 0xFFF) = .next ((State.reset.setPc 0xFFF).raiseFault .fetchOutOfBounds) ∧
    step (State.reset.withFetchWord 16 0x00EE) =
      .next (((State.reset.withFetchWord 16 0x00EE).setPc 0x202).raiseFault .stackUnderflow) :=
  ⟨eq_next (by decide), eq_next (by decide), eq_next (by decide)⟩

/-- A step that falls through, one for each other clause: a skip, an LDK, a JMP, a CALL, a JMPZ and a RET. -/
theorem witness_NextPcIsOneOfTheListed : step State.reset = .next (State.reset.setPc 0x202) ∧
    (State.reset.setPc 0x202).halt = none ∧
    (run State.reset 0x3000).pc = 0x204 ∧ (run State.reset 0x3000).halt = none ∧
    (run State.reset 0xF10A).pc = 0x200 ∧ (run State.reset 0xF10A).halt = none ∧
    (run State.reset 0x1FFF).pc = 0xFFF ∧ (run State.reset 0x1FFF).halt = none ∧
    (run State.reset 0x2FFF).pc = 0xFFF ∧ (run State.reset 0x2FFF).halt = none ∧
    (run (withRegs [(0, 0xFF)]) 0xBFFF).pc = 0x10FE ∧ (run (withRegs [(0, 0xFF)]) 0xBFFF).halt = none ∧
    (run (State.reset.push 0xFFE) 0x00EE).pc = 0x1000 ∧ (run (State.reset.push 0xFFE) 0x00EE).halt = none := by
  refine ⟨eq_next (by decide), ?_⟩; decide

theorem witness_OnlyDestinationsAreWritten :
    exec (.add 1 2) State.reset = .next ((State.reset.setReg 1 0).setReg 15 0) ∧
    ¬ writesReg State.reset.quirks (.add 1 2) 2 ∧ ¬ writesReg State.reset.quirks (.lreg 14) 15 := by
  refine ⟨eq_next (by decide), ?_, ?_⟩ <;> simp [writesReg]

theorem witness_StateIsWrittenByItsInstructionsOnly : exec (.ldi 0xFFF) State.reset = .next (State.reset.setI 0xFFF) ∧
    ¬ writesIndex State.reset.quirks (.sreg 0) := by
  refine ⟨eq_next (by decide), ?_⟩; simp [writesIndex, State.reset]

theorem witness_OnlyTheHostWritesKeys :
    ((HostOp.keyPressed 15).apply State.reset).keyDown 15 ≠ State.reset.keyDown 15 ∧
    ((HostOp.keyReleased 0).apply (State.reset.keyPressed 0)).keyDown 0 ≠ (State.reset.keyPressed 0).keyDown 0 := by
  decide

theorem witness_StackIsNotInMemory : (∀ nnn, Instr.sreg 0 ≠ .call nnn) ∧ Instr.sreg 0 ≠ .ret ∧
    exec (.sreg 0) (withBytes [(0, 7)] []) = .next ((withBytes [(0, 7)] []).storeBytes 0x300 [7]) := by
  refine ⟨by simp, by decide, eq_next (by decide)⟩

theorem witness_StepRelationTakesItsParameters :
    State.reset.toCoreState.halt = none ∧ (State.reset.raiseFault .invalidKey).toCoreState.halt ≠ none ∧
    step State.reset = .next (State.reset.setPc 0x202) := ⟨by decide, by decide, eq_next (by decide)⟩

theorem witness_OnlyRndAsksTheOracle : (∀ x nn, Instr.or 1 2 ≠ .rnd x nn) ∧
    exec (.or 1 2) State.reset = .next State.reset := ⟨by simp, eq_next (by decide)⟩

/-- Every quirk but `memory` may differ at an LREG, and SHIFT_VF at a shift into another register than VF. -/
theorem witness_QuirksChangeTheirInstructionsOnly :
    exec (.lreg 0) (withBytes [] [7]) = .next ((withBytes [] [7]).setReg 0 7) ∧
    ¬ (∃ x y, Instr.lreg 0 = .or x y ∨ Instr.lreg 0 = .and x y ∨ Instr.lreg 0 = .xor x y) ∧
    ¬ (∃ x y, Instr.lreg 0 = .shr x y ∨ Instr.lreg 0 = .shl x y) ∧ ¬ (∃ nnn, Instr.lreg 0 = .jmpz nnn) ∧
    ¬ (∃ x y n, Instr.lreg 0 = .draw x y n) ∧
    (vfResetOn State.reset).quirks.memory = State.reset.quirks.memory ∧
    ¬ (∃ y, Instr.shr 14 0 = .shr 15 y ∨ Instr.shr 14 0 = .shl 15 y) :=
  ⟨eq_next (by decide), by simp, by simp, by simp, by simp, by decide, by simp⟩

theorem witness_FontAreaNeverChanges : (0x04F : Nat) < 0x050 ∧ State.reset.readByte 0x04F = 0x80 := by decide

/-- A core armed at an LDK, with one return address: every clause of the invariant has something to say. -/
def armedState : State := ((State.reset.withFetchWord 16 0xF10A).setWait true none).push 0x400

theorem armedState_inv : armedState.Inv := by
  refine ⟨by decide, by decide, ?_, by decide, fun _ => ⟨by decide, 1, by decide⟩⟩
  intro j hj
  have hsp : armedState.sp.val = 1 := by decide
  obtain rfl : j = 0 := by omega
  decide

theorem witness_StepKeepsTheInvariant : armedState.Inv ∧ step armedState = .next armedState :=
  ⟨armedState_inv, eq_next (by decide)⟩

theorem witness_HostOperationsKeepTheInvariant : armedState.Inv ∧
    (HostOp.keyReleased 15).apply armedState = armedState.setWait true (some 15) := ⟨armedState_inv, by decide⟩

/-- A launch whose INIT_MEM fills the ends of the memory outside the font. -/
def filledLaunch : LaunchParams := { initMem := [(0x050, 1), (0xFFF, 1)], resetI := 0xFFFF }

theorem witness_LoadsMeetTheInvariant : filledLaunch.initMem.wf = true ∧
    (load [0x12, 0x00] State.reset.quirks filledLaunch).isOk = true := by decide

theorem witness_ReachableStatesMeetTheInvariant : (State.reset.setPc 0x202).reachable :=
  ⟨[], State.reset.quirks, {}, State.reset, [.step, .tick], by decide, by decide, by decide⟩

theorem witness_CanonicalMemoriesThatReadAlikeAreEqual :
    Memory.wf [(0x000, 1), (0xFFF, 1)] = true ∧ Memory.wf [(0x1000, 1)] = false ∧ Memory.wf [(0x300, 0)] = false ∧
    ∀ a, Memory.read [(0xFFF, 1)] a = Memory.read [(0xFFF, 1)] a := by
  refine ⟨by decide, by decide, by decide, fun _ => rfl⟩

theorem witness_ArithmeticIsUnsignedModulo256 : (14 : Reg) ≠ 15 := by decide

theorem witness_BitwiseOperationsAndVfReset : (vfResetOn State.reset).quirks.vfReset = true ∧
    (State.reset.quirks.vfReset = false ∨ (15 : Reg) ≠ 15) ∧ ((vfResetOn State.reset).quirks.vfReset = false ∨ (14 : Reg) ≠ 15) ∧
    Instr.or 15 0 = .or 15 0 := by decide

theorem witness_ShiftsByOne : (14 : Reg) ≠ 15 ∧ (15 : Reg) = 15 := by decide

theorem witness_RandomByteIsMasked : (0x7F : Byte).getLsbD 7 = false ∧ (0 : Byte) = 0 := by decide

/-- The last byte of memory as a sprite, wrapped to the far corner; a sprite of no rows at 0x1000 covers nothing. -/
theorem witness_DrawTogglesTheSpritePixels :
    let s := wrapOn (((withRegs [(0, 63), (1, 31)]).setI 0xFFF).storeBytes 0xFFF [0xC0])
    s.i.toNat + (1 : Fin 16).val ≤ 4096 ∧ spriteCovers s 0 1 1 63 31 ∧ spriteCovers s 0 1 1 0 31 ∧
    ¬ spriteCovers s 0 1 1 1 31 ∧
    (State.reset.setI 0x1000).i.toNat + (0 : Fin 16).val ≤ 4096 ∧ ¬ spriteCovers (State.reset.setI 0x1000) 0 1 0 0 0 := by
  simp only [spriteCovers]; decide

/-- With wrap off the sprite is clipped. -/
theorem witness_DrawTogglesTheSpritePixels_clipped :
    let s := ((withRegs [(0, 63), (1, 31)]).setI 0xFFF).storeBytes 0xFFF [0xC0]
    spriteCovers s 0 1 1 63 31 ∧ ¬ spriteCovers s 0 1 1 0 31 := by
  simp only [spriteCovers]; decide

theorem witness_DrawingTwiceRestoresTheScreen :
    let s := withBytes [(0, 60)] [0xFF]
    s.i.toNat + (1 : Fin 16).val ≤ 4096 ∧ (0 : Reg) ≠ 15 ∧ (14 : Reg) ≠ 15 ∧
    exec (.draw 0 14 1) s = .next (effectOf (.draw 0 14 1) s) ∧
    exec (.draw 0 14 1) (effectOf (.draw 0 14 1) s) = .next (effectOf (.draw 0 14 1) (effectOf (.draw 0 14 1) s)) ∧
    spriteCovers s 0 14 1 63 0 ∧ s.pixel (63, 0) = false :=
  ⟨by decide, by decide, by decide, exec_of_guard (by decide), exec_of_guard (by decide),
    by simp only [spriteCovers]; decide, by decide⟩

theorem witness_CallPushesItsAddress : (({ State.reset with sp := 15 } : State).sp.val < 16) := by decide

theorem witness_RetReturnsPastTheCall : 0 < (({ State.reset with sp := 1 } : State).sp.val) ∧
    0 < (({ State.reset with sp := 16 } : State).sp.val) := by decide

theorem witness_RetAfterCallResumesAfterIt : State.reset.sp.val < 16 ∧
    exec (.call 0x400) State.reset = .next ((State.reset.push 0x1FE).setPc 0x400) :=
  ⟨by decide, eq_next (by decide)⟩

theorem witness_SelfJumpIsAFixedPoint :
    let s := (State.reset.setPc 0xFFE).withFetchWord 16 0x1FFE
    s.halt = none ∧ s.canFetch = true ∧ s.fetchInstr = .jmp 0xFFE ∧ (0xFFE : Addr12).toNat = s.pc.toNat := by decide

theorem witness_KeySkipsFollowTheKey : ((withRegs [(1, 15)]).reg 1).toNat ≤ 15 := by decide

theorem witness_LdkArmsWaitsAndCaptures : State.reset.waiting = false ∧
    (State.reset.setWait true none).waiting = true ∧ (State.reset.setWait true none).released = none ∧
    (State.reset.setWait true (some 0)).released = some 0 ∧ (State.reset.setWait true (some 15)).released = some 15 := by
  decide

theorem witness_UnreleasedLdkWaitsForEver : armedState.Inv ∧ armedState.waiting = true ∧ armedState.released = none ∧
    ∀ k, HostOp.keyReleased k ∉ [HostOp.step, .keyPressed 3, .tick, .clearDirty, .step] :=
  ⟨armedState_inv, by decide, by decide, by simp⟩

theorem witness_ReleaseCompletesAnArmedLdk : armedState.halt = none ∧ armedState.canFetch = true ∧
    armedState.fetchInstr = .ldk 1 ∧ armedState.waiting = true ∧ armedState.released = none ∧ 15 < 16 := by decide

theorem witness_IndexInstructionsSetI :
    (((withRegs [(1, 0xFF)]).setI 0xFF00).i.toNat + ((withRegs [(1, 0xFF)]).reg 1).toNat ≤ 0xFFFF) ∧
    ((withRegs [(1, 15)]).reg 1).toNat ≤ 15 := by decide

theorem witness_BcdStoresTheDecimalDigits : (State.reset.setI 0xFFD).i.toNat + 3 ≤ 4096 ∧
    0x050 ≤ (State.reset.setI 0xFFD).i.toNat ∧ (State.reset.setI 0x050).i.toNat + 3 ≤ 4096 ∧
    0x050 ≤ (State.reset.setI 0x050).i.toNat := by decide

theorem witness_SregStoresTheRegisters : (State.reset.setI 0xFF0).i.toNat + ((15 : Reg).val + 1) ≤ 4096 ∧
    0x050 ≤ (State.reset.setI 0xFF0).i.toNat ∧ (State.reset.setI 0x050).i.toNat + ((0 : Reg).val + 1) ≤ 4096 ∧
    0x050 ≤ (State.reset.setI 0x050).i.toNat := by decide

theorem witness_LregLoadsTheRegisters : (State.reset.setI 0xFF0).i.toNat + ((15 : Reg).val + 1) ≤ 4096 ∧
    (State.reset.setI 0xFFF).i.toNat + ((0 : Reg).val + 1) ≤ 4096 := by decide

theorem witness_LregLoadsWhatSregStored :
    let s := withBytes [(0, 7), (1, 9)] []
    let t := s.storeBytes 0x300 [7, 9]
    let u := t.setReg 0 0
    s.i.toNat + ((1 : Reg).val + 1) ≤ 4096 ∧ 0x050 ≤ s.i.toNat ∧ exec (.sreg 1) s = .next t ∧ u.mem = t.mem ∧
      u.i = s.i := ⟨by decide, by decide, eq_next (by decide), by decide, by decide⟩

theorem witness_TickCountsBothTimersDown : State.reset.halt = none ∧
    (State.reset.raiseFault .stackOverflow).halt = some .stackOverflow := by decide

theorem witness_KeyEventsUpdateTheKeypad : State.reset.halt = none ∧ 15 < 16 ∧ 15 < 0x10000 ∧
    (State.reset.raiseFault .hostKeyIndex).halt = some .hostKeyIndex ∧ State.reset.waiting = false ∧
    armedState.waiting = true ∧ armedState.released = none ∧ (armedState.setWait true (some 2)).halt = none ∧
    (armedState.setWait true (some 2)).released = some 2 := by decide

theorem witness_HostOnlyClearsDirty : HostOp.keyReleased 16 ≠ .step ∧ HostOp.keyReleased 16 ≠ .tick ∧
    HostOp.keyReleased 16 ≠ .clearDirty ∧ HostOp.tick ≠ .step ∧ HostOp.clearDirty ≠ .tick := by decide

theorem witness_LoadRefusesExactlyLargeRoms : 3583 < (List.replicate 3584 (0 : Byte)).length ∧
    (List.replicate 3583 (0 : Byte)).length ≤ 3583 := by
  simp only [List.length_replicate]; decide

theorem witness_LoadBuildsTheResetState : (load [0x12, 0x00] (wrapOn State.reset).quirks filledLaunch).isOk = true ∧
    filledLaunch.initMem.wf = true ∧ 1 < ([0x12, 0x00] : List Byte).length ∧ 79 < 80 ∧ 0x050 ≤ 0x050 ∧
    (0x050 < 0x200 ∨ 0x200 + ([0x12, 0x00] : List Byte).length ≤ 0x050) ∧
    (0xFFF < 0x200 ∨ 0x200 + ([0x12, 0x00] : List Byte).length ≤ 0xFFF) := by decide

theorem witness_ColorModelIsRowMajor : ([0xFF, 0x00] : List Byte).length = ([0x00, 0xFF] : List Byte).length ∧
    1 < ([0xFF, 0x00] : List Byte).length := by decide

end Sys2Proof.Tests
end

section
/-! SUPPORT. What each instruction's effect leaves alone, one lemma per part of the state (10_state.md R20), and what
the host operations other than a step leave alone. -/

namespace Sys2Proof.Machine

open Sys2Proof.Says

/-! ## LDK, the one effect that is a case distinction (45_timers_keypad.md R225, R227) -/

theorem effectOf_ldk_idle (x : Reg) {s : State} (hw : s.waiting = false) :
    effectOf (.ldk x) s = (s.setWait true s.released).rewindPc := by simp [effectOf, hw]

theorem effectOf_ldk_armed (x : Reg) {s : State} (hw : s.waiting = true) (hr : s.released = none) :
    effectOf (.ldk x) s = s.rewindPc := by simp [effectOf, hw, hr]

theorem effectOf_ldk_released (x : Reg) {s : State} {k : Key} (hw : s.waiting = true) (hr : s.released = some k) :
    effectOf (.ldk x) s = s.captureKey x k := by simp [effectOf, hw, hr]

/-- Everything LDK's effect can be: it arms the wait, it goes on waiting, or it takes the released key. -/
theorem effectOf_ldk_cases (x : Reg) (s : State) :
    (s.waiting = false ∧ effectOf (.ldk x) s = (s.setWait true s.released).rewindPc) ∨
    (s.waiting = true ∧ effectOf (.ldk x) s = s.rewindPc) ∨
    (∃ k, s.waiting = true ∧ effectOf (.ldk x) s = s.captureKey x k) := by
  cases hw : s.waiting with
  | false => exact .inl ⟨rfl, effectOf_ldk_idle x hw⟩
  | true =>
    cases hr : s.released with
    | none => exact .inr (.inl ⟨rfl, effectOf_ldk_armed x hw hr⟩)
    | some k => exact .inr (.inr ⟨k, rfl, effectOf_ldk_released x hw hr⟩)

/-- LDK writes V[x], pc and the wait sub-state, and nothing else. -/
theorem effectOf_ldk_frame (x : Reg) (s : State) : ∃ b pc w r,
    effectOf (.ldk x) s = ((s.setReg x b).setPc pc).setWait w r := by
  obtain ⟨-, h⟩ | ⟨-, h⟩ | ⟨k, -, h⟩ := effectOf_ldk_cases x s
  · exact ⟨s.reg x, s.pc - 2, true, s.released, by simp [h, State.setReg, State.setPc, State.setWait, State.reg]⟩
  · exact ⟨s.reg x, s.pc - 2, s.waiting, s.released,
      by simp [h, State.setReg, State.setPc, State.setWait, State.reg]⟩
  · exact ⟨BitVec.ofNat 8 k.val, s.pc, false, none, h⟩

/-- So whatever is read from the other parts of the state stays. -/
theorem effectOf_ldk_field {α : Type} (f : State → α) {x : Reg} {s : State}
    (hf : ∀ b pc w r, f (((s.setReg x b).setPc pc).setWait w r) = f s) : f (effectOf (.ldk x) s) = f s := by
  obtain ⟨b, pc, w, r, h⟩ := effectOf_ldk_frame x s
  rw [h, hf]

/-! ## The frame of an effect -/

section Effects

variable {i : Instr} {s : State}

theorem effectOf_reg {j : Reg} (h : ¬ writesReg s.quirks i j) : (effectOf i s).reg j = s.reg j := by
  cases i
  case ldk x => exact effectOf_ldk_field (·.reg j) fun b _ _ _ => State.reg_setReg_ne s h b
  all_goals
    simp_all [writesReg, effectOf, State.reg_setReg, State.reg_setBitwise, State.reg_setShift, State.reg_loadRun]

theorem effectOf_i (h : ¬ writesIndex s.quirks i) : (effectOf i s).i = s.i := by
  cases i
  case ldk x => exact effectOf_ldk_field (·.i) fun _ _ _ _ => rfl
  all_goals simp_all [writesIndex, effectOf, State.advanceIndex_i]

theorem effectOf_stack (hc : ∀ nnn, i ≠ .call nnn) : (effectOf i s).stack = s.stack := by
  cases i
  case ldk x => exact effectOf_ldk_field (·.stack) fun _ _ _ _ => rfl
  all_goals simp_all [effectOf]

theorem effectOf_sp (hc : ∀ nnn, i ≠ .call nnn) (hr : i ≠ .ret) : (effectOf i s).sp = s.sp := by
  cases i
  case ldk x => exact effectOf_ldk_field (·.sp) fun _ _ _ _ => rfl
  all_goals simp_all [effectOf]

theorem effectOf_fb (hc : i ≠ .cls) (hd : ∀ x y n, i ≠ .draw x y n) : (effectOf i s).fb = s.fb := by
  cases i
  case ldk x => exact effectOf_ldk_field (·.fb) fun _ _ _ _ => rfl
  all_goals simp_all [effectOf]

theorem effectOf_dirty (hc : i ≠ .cls) (hd : ∀ x y n, i ≠ .draw x y n) : (effectOf i s).dirty = s.dirty := by
  cases i
  case ldk x => exact effectOf_ldk_field (·.dirty) fun _ _ _ _ => rfl
  all_goals simp_all [effectOf]

theorem effectOf_dt (h : ∀ x, i ≠ .lddt x) : (effectOf i s).dt = s.dt := by
  cases i
  case ldk x => exact effectOf_ldk_field (·.dt) fun _ _ _ _ => rfl
  all_goals simp_all [effectOf]

theorem effectOf_st (h : ∀ x, i ≠ .ldst x) : (effectOf i s).st = s.st := by
  cases i
  case ldk x => exact effectOf_ldk_field (·.st) fun _ _ _ _ => rfl
  all_goals simp_all [effectOf]

theorem effectOf_mem (hb : ∀ x, i ≠ .bcd x) (hs : ∀ x, i ≠ .sreg x) : (effectOf i s).mem = s.mem := by
  cases i
  case ldk x => exact effectOf_ldk_field (·.mem) fun _ _ _ _ => rfl
  all_goals simp_all [effectOf]

theorem effectOf_waiting (h : ∀ x, i ≠ .ldk x) : (effectOf i s).waiting = s.waiting := by
  cases i <;> simp_all [effectOf]

theorem effectOf_released (h : ∀ x, i ≠ .ldk x) : (effectOf i s).released = s.released := by
  cases i <;> simp_all [effectOf]

theorem effectOf_draws (h : ∀ x nn, i ≠ .rnd x nn) : (effectOf i s).draws = s.draws := by
  cases i
  case ldk x => exact effectOf_ldk_field (·.draws) fun _ _ _ _ => rfl
  all_goals simp_all [effectOf]

/-- Everything an effect can do to memory (20_memory.md R57): nothing, or a run of stores that the guard has found to
lie past the font area and inside memory. -/
theorem effectOf_mem_cases (h : guardOf i s = none) : (effectOf i s).mem = s.mem ∨
    ∃ base bytes, 0x050 ≤ base ∧ base + bytes.length ≤ 4096 ∧ (effectOf i s).mem = s.mem.writeRun base bytes := by
  by_cases hb : ∃ x, i = .bcd x
  · obtain ⟨x, rfl⟩ := hb
    obtain ⟨hlen, hfont⟩ := (checkWrite_eq_none _ _).1 h
    exact .inr ⟨s.i.toNat, decimalDigits (s.reg x), hfont, hlen, rfl⟩
  by_cases hs : ∃ x, i = .sreg x
  · obtain ⟨x, rfl⟩ := hs
    obtain ⟨hlen, hfont⟩ := (checkWrite_eq_none _ _).1 h
    exact .inr ⟨s.i.toNat, s.regsUpTo x, hfont, by simpa using hlen, by simp [effectOf]⟩
  exact .inl (effectOf_mem (by simpa using hb) (by simpa using hs))

end Effects

/-! ## Steps and host operations -/

/-- A running core always steps. -/
theorem exists_step_of_running {s : State} (h : s.halt = none) : ∃ t, step s = .next t := by
  have hexec : ∀ i s, ∃ t, exec i s = .next t := fun i s => by
    rw [exec_eq]; cases guardOf i s <;> exact ⟨_, rfl⟩
  simp only [step, h]
  split
  · exact hexec _ _
  · exact ⟨_, rfl⟩

/-- A step writes neither the quirks nor SHIFT_VF. -/
theorem step_quirks_shiftVF {s t : State} (h : step s = .next t) : t.quirks = s.quirks ∧ t.shiftVF = s.shiftVF := by
  obtain ⟨-, ⟨-, rfl⟩ | ⟨-, k, -, rfl⟩ | ⟨-, -, rfl⟩⟩ := step_cases h <;> simp

/-- The step as the host calls it: nothing, or a step of the core. -/
theorem State.stepped_cases (s : State) : s.stepped = s ∨ step s = .next s.stepped := by
  unfold State.stepped
  cases step s with
  | next t => exact .inr rfl
  | fault r => exact .inl rfl
  | refused r => exact .inl rfl

/-- What the host operations other than a step leave alone (60_exceptions.md R250 to R253, 41_display.md R126). -/
structure State.SameProgramState (s t : State) : Prop where
  mem : t.mem = s.mem
  v : t.v = s.v
  i : t.i = s.i
  pc : t.pc = s.pc
  stack : t.stack = s.stack
  sp : t.sp = s.sp
  fb : t.fb = s.fb
  quirks : t.quirks = s.quirks
  shiftVF : t.shiftVF = s.shiftVF
  waiting : t.waiting = s.waiting
  released : t.waiting = false → t.released = s.released

/-- A key event: nothing in a halted core, the fault, or the event itself. -/
theorem State.keyEvent_cases (s : State) (k : Nat) (f : Key → State) :
    s.keyEvent k f = s ∨ s.keyEvent k f = s.raiseFault .hostKeyIndex ∨ ∃ k', s.keyEvent k f = f k' := by
  unfold State.keyEvent
  split
  · exact .inl rfl
  · split
    · exact .inr (.inr ⟨_, rfl⟩)
    · exact .inr (.inl rfl)

theorem State.SameProgramState.refl (s : State) : s.SameProgramState s :=
  ⟨rfl, rfl, rfl, rfl, rfl, rfl, rfl, rfl, rfl, rfl, fun _ => rfl⟩

theorem State.sameProgramState_raiseFault (s : State) (k : FaultKind) : s.SameProgramState (s.raiseFault k) :=
  ⟨rfl, rfl, rfl, rfl, rfl, rfl, rfl, rfl, rfl, rfl, fun _ => rfl⟩

theorem State.sameProgramState_setKey (s : State) (k : Key) (b : Bool) : s.SameProgramState (s.setKey k b) :=
  ⟨rfl, rfl, rfl, rfl, rfl, rfl, rfl, rfl, rfl, rfl, fun _ => rfl⟩

theorem State.sameProgramState_capture (s : State) (k : Key) : s.SameProgramState (s.capture k) := by
  unfold State.capture
  split
  · rename_i hw
    split <;> exact ⟨rfl, rfl, rfl, rfl, rfl, rfl, rfl, rfl, rfl, hw.symm, fun h => by simp at h⟩
  · exact .refl s

theorem State.SameProgramState.trans {s t u : State} (h : s.SameProgramState t) (h' : t.SameProgramState u) :
    s.SameProgramState u where
  mem := h'.mem.trans h.mem
  v := h'.v.trans h.v
  i := h'.i.trans h.i
  pc := h'.pc.trans h.pc
  stack := h'.stack.trans h.stack
  sp := h'.sp.trans h.sp
  fb := h'.fb.trans h.fb
  quirks := h'.quirks.trans h.quirks
  shiftVF := h'.shiftVF.trans h.shiftVF
  waiting := h'.waiting.trans h.waiting
  released hu := (h'.released hu).trans (h.released (h'.waiting.symm.trans hu))

/-- Every host operation but a step leaves the program's state alone. -/
theorem HostOp.apply_sameProgramState {op : HostOp} (h : op ≠ .step) (s : State) : s.SameProgramState (op.apply s) := by
  cases op with
  | step => exact absurd rfl h
  | tick =>
    simp only [HostOp.apply, State.tick]
    split
    · exact .refl s
    · exact ⟨rfl, rfl, rfl, rfl, rfl, rfl, rfl, rfl, rfl, rfl, fun _ => rfl⟩
  | clearDirty => exact ⟨rfl, rfl, rfl, rfl, rfl, rfl, rfl, rfl, rfl, rfl, fun _ => rfl⟩
  | keyPressed k =>
    obtain h | h | ⟨k', h⟩ := s.keyEvent_cases k (s.setKey · true) <;>
      rw [HostOp.apply, State.keyPressed, h]
    · exact .refl s
    · exact s.sameProgramState_raiseFault _
    · exact s.sameProgramState_setKey k' true
  | keyReleased k =>
    obtain h | h | ⟨k', h⟩ := s.keyEvent_cases k fun k => (s.setKey k false).capture k <;>
      rw [HostOp.apply, State.keyReleased, h]
    · exact .refl s
    · exact s.sameProgramState_raiseFault _
    · exact (s.sameProgramState_setKey k' false).trans (State.sameProgramState_capture _ k')

/-- Everything a host operation can do: a step of the core, or it leaves the program's state alone. -/
theorem HostOp.apply_cases (op : HostOp) (s : State) :
    Machine.step s = .next (op.apply s) ∨ s.SameProgramState (op.apply s) := by
  by_cases h : op = .step
  · subst h
    obtain h | h := s.stepped_cases
    · exact .inr (by rw [HostOp.apply, h]; exact .refl s)
    · exact .inl h
  · exact .inr (HostOp.apply_sameProgramState h s)

end Sys2Proof.Machine
end

section
/-! The invariant of the block (10_state.md R25, R36; 42_control_flow.md R140; 45_timers_keypad.md R225): every step and
every host operation keeps it, and every launch begins with it. -/

namespace Sys2Proof.Machine

/-! ## The invariant depends on memory, pc, the stack and the wait alone -/

theorem State.canFetch_iff (s : State) : s.canFetch = true ↔ s.pc.toNat + 1 ≤ 0xFFF := by simp [State.canFetch]

theorem State.canFetch_congr {s t : State} (hpc : t.pc = s.pc) : t.canFetch = s.canFetch := by
  rw [State.canFetch, State.canFetch, hpc]

theorem State.fetchInstr_congr {s t : State} (hm : t.mem = s.mem) (hpc : t.pc = s.pc) :
    t.fetchInstr = s.fetchInstr := by
  simp only [State.fetchInstr, State.fetchWord, State.readByte, hm, hpc]

theorem State.armedAtLdk_of_idle {s : State} (h : s.waiting = false) : s.armedAtLdk := fun hw => by simp [h] at hw

theorem State.armedAtLdk_congr {s t : State} (hm : t.mem = s.mem) (hpc : t.pc = s.pc) (hw : t.waiting = s.waiting)
    (h : s.armedAtLdk) : t.armedAtLdk := by
  intro ht
  obtain ⟨hf, x, hx⟩ := h (hw ▸ ht)
  exact ⟨(State.canFetch_congr hpc).trans hf, x, (State.fetchInstr_congr hm hpc).trans hx⟩

theorem State.stackInRange_congr {s t : State} (hst : t.stack = s.stack) (hsp : t.sp = s.sp) (h : s.stackInRange) :
    t.stackInRange := by
  intro j hj
  rw [State.stackEntry, hst]
  exact h j (hsp ▸ hj)

/-- An operation that leaves the program's state alone keeps the invariant. -/
theorem State.Inv.of_sameProgramState {s t : State} (h : s.Inv) (ht : s.SameProgramState t) : t.Inv where
  memory := by rw [ht.mem]; exact h.memory
  pcBound := by rw [ht.pc]; exact h.pcBound
  stackRange := State.stackInRange_congr ht.stack ht.sp h.stackRange
  releasedOnlyArmed hr := by
    by_contra hw
    have hw : t.waiting = false := by simpa using hw
    exact absurd (h.releasedOnlyArmed (ht.released hw ▸ hr)) (by simp [← ht.waiting, hw])
  armed := State.armedAtLdk_congr ht.mem ht.pc ht.waiting h.armed

/-! ## Memory -/

theorem effectOf_wf {i : Instr} {s : State} (hm : s.mem.wf = true) (hg : guardOf i s = none) :
    (effectOf i s).mem.wf = true := by
  obtain h | ⟨base, bytes, -, hlen, h⟩ := effectOf_mem_cases hg
  · rw [h]; exact hm
  · rw [h]; exact Memory.wf_writeRun hm hlen

/-! ## The program counter (R25) -/

@[simp] theorem toNat_addrOperand (nnn : Addr12) : (addrOperand nnn).toNat = nnn.toNat := by
  have := nnn.isLt
  simp [addrOperand]; omega

@[simp] theorem toNat_byteOperand (b : Byte) : (byteOperand b).toNat = b.toNat := by
  have := b.isLt
  simp [byteOperand]; omega

theorem toNat_add_two {w : Word} (h : w.toNat ≤ 0x1000) : (w + 2).toNat = w.toNat + 2 :=
  BitVec.toNat_add_of_lt (by simp; omega)

/-- The entry RET pops is one in use. -/
theorem State.toNat_top_le {s : State} (hst : s.stackInRange) (hsp : s.sp ≠ 0) : s.top.toNat ≤ 0xFFE := by
  have hpop := s.sp_pop hsp
  have hpos : s.sp.val ≠ 0 := fun h => hsp (Fin.ext h)
  rw [State.pop_stackEntry_top]
  exact hst _ (by omega)

/-- No instruction takes pc past 0x10FE: the most is JMPZ's 0xFFF + 0xFF. -/
theorem effectOf_pc_le {i : Instr} {s : State} (hlo : 2 ≤ s.pc.toNat) (hhi : s.pc.toNat ≤ 0x1000)
    (hst : s.stackInRange) (hg : guardOf i s = none) : (effectOf i s).pc.toNat ≤ 0x10FE := by
  have hskip : ∀ c, (s.skipIf c).pc.toNat ≤ 0x10FE := fun c => by
    rw [State.skipIf_eq, State.setPc_pc]
    split
    · rw [toNat_add_two hhi]; omega
    · omega
  cases i
  case ret =>
    have htop := s.toNat_top_le hst ((checkPop_eq_none s).1 hg)
    rw [effectOf, State.setPc_pc, toNat_add_two] <;> omega
  case jmp nnn => simp [effectOf]; omega
  case call nnn => simp [effectOf]; omega
  case jmpz nnn =>
    have hn := nnn.isLt
    have hb := (s.reg (s.jumpRegister nnn)).isLt
    simp only [effectOf, State.setPc_pc]
    rw [BitVec.toNat_add_of_lt] <;> simp <;> omega
  case ldk x =>
    have hback : (s.pc - 2).toNat ≤ 0x10FE := by
      rw [BitVec.toNat_sub_of_le (by rw [BitVec.le_def]; exact hlo)]; omega
    obtain ⟨-, h⟩ | ⟨-, h⟩ | ⟨k, -, h⟩ := effectOf_ldk_cases x s
    · rw [h]; exact hback
    · rw [h]; exact hback
    · rw [h]; simp; omega
  case skeb | skneb | ske | skne | skp | sknp => exact hskip _
  all_goals simp [effectOf]; omega

/-! ## The stack (R140) -/

theorem State.stackInRange_push {s : State} {w : Word} (hst : s.stackInRange) (hsp : s.sp ≠ 16)
    (hw : w.toNat ≤ 0xFFE) : (s.push w).stackInRange := by
  intro j hj
  rw [s.sp_push w hsp] at hj
  rw [s.stackEntry_push w j hsp]
  split
  · exact hw
  · exact hst j (by omega)

theorem State.stackInRange_pop {s : State} (hst : s.stackInRange) (hsp : s.sp ≠ 0) : s.pop.stackInRange := by
  intro j hj
  rw [s.sp_pop hsp] at hj
  exact hst j (by omega)

/-- Return addresses stay in range: CALL pushes the address it was fetched from. -/
theorem effectOf_stackInRange {i : Instr} {s : State} (hst : s.stackInRange) (hpc : s.fetchedFrom.toNat ≤ 0xFFE)
    (hg : guardOf i s = none) : (effectOf i s).stackInRange := by
  by_cases hc : ∃ nnn, i = .call nnn
  · obtain ⟨nnn, rfl⟩ := hc
    exact State.stackInRange_push hst ((checkPush_eq_none s).1 hg) hpc
  have hc' : ∀ nnn, i ≠ .call nnn := by simpa using hc
  by_cases hr : i = .ret
  · subst hr
    exact State.stackInRange_pop hst ((checkPop_eq_none s).1 hg)
  exact State.stackInRange_congr (effectOf_stack hc') (effectOf_sp hc' hr) hst

/-! ## The wait (R36, R225) -/

/-- After an effect RELEASED is set only while the wait is armed. -/
theorem effectOf_releasedOnlyArmed {i : Instr} {s : State} (h : s.released ≠ none → s.waiting = true) :
    (effectOf i s).released ≠ none → (effectOf i s).waiting = true := by
  by_cases hi : ∃ x, i = .ldk x
  · obtain ⟨x, rfl⟩ := hi
    obtain ⟨-, hx⟩ | ⟨hw, hx⟩ | ⟨k, -, hx⟩ := effectOf_ldk_cases x s <;> rw [hx] <;> simp_all
  · have hi' : ∀ x, i ≠ .ldk x := by simpa using hi
    rw [effectOf_released hi', effectOf_waiting hi']
    exact h

/-- The fetched LDK leaves an armed wait only where it rewinds pc to itself; any other instruction was fetched with
the wait idle and leaves it idle. -/
theorem effectOf_armedAtLdk {s : State} (h : s.armedAtLdk) (hf : s.canFetch = true) :
    (effectOf s.fetchInstr s.advancePc).armedAtLdk := by
  by_cases hi : ∃ x, s.fetchInstr = .ldk x
  · obtain ⟨x, hfetch⟩ := hi
    have hrewind : ∀ t : State, t.mem = s.mem → t.pc = s.pc + 2 - 2 → t.armedAtLdk := fun t hm hpc _ => by
      rw [BitVec.add_sub_cancel] at hpc
      exact ⟨(State.canFetch_congr hpc).trans hf, x, (State.fetchInstr_congr hm hpc).trans hfetch⟩
    rw [hfetch]
    obtain ⟨-, hx⟩ | ⟨-, hx⟩ | ⟨k, -, hx⟩ := effectOf_ldk_cases x s.advancePc <;> rw [hx]
    · exact hrewind _ rfl rfl
    · exact hrewind _ rfl rfl
    · exact State.armedAtLdk_of_idle rfl
  · have hidle : s.waiting = false := Bool.eq_false_iff.2 fun hw => hi (h hw).2
    exact State.armedAtLdk_of_idle ((effectOf_waiting (by simpa using hi)).trans hidle)

/-! ## A step -/

/-- pc after the advance of a fetch inside memory. -/
theorem State.toNat_advancePc {s : State} (hf : s.canFetch = true) : s.advancePc.pc.toNat = s.pc.toNat + 2 := by
  have := s.canFetch_iff.1 hf
  exact toNat_add_two (by omega)

theorem step_keeps_inv {s t : State} (h : s.Inv) (hstep : step s = .next t) : t.Inv := by
  obtain ⟨-, ⟨-, rfl⟩ | ⟨hf, k, hk, rfl⟩ | ⟨hf, hg, rfl⟩⟩ := step_cases hstep
  · exact h.of_sameProgramState (s.sameProgramState_raiseFault _)
  · have hpc := State.toNat_advancePc hf
    have hin := s.canFetch_iff.1 hf
    have hidle : s.waiting = false := Bool.eq_false_iff.2 fun hw => by
      obtain ⟨x, hx⟩ := (h.armed hw).2
      simp [hx, guardOf] at hk
    exact ⟨h.memory, by rw [State.raiseFault_pc]; omega, h.stackRange, h.releasedOnlyArmed,
      State.armedAtLdk_of_idle hidle⟩
  · have hpc := State.toNat_advancePc hf
    have hin := s.canFetch_iff.1 hf
    have hfrom : s.advancePc.fetchedFrom = s.pc := BitVec.add_sub_cancel _ _
    exact ⟨effectOf_wf (s := s.advancePc) h.memory hg,
      effectOf_pc_le (by omega) (by omega) h.stackRange hg,
      effectOf_stackInRange h.stackRange (by rw [hfrom]; omega) hg,
      effectOf_releasedOnlyArmed h.releasedOnlyArmed,
      effectOf_armedAtLdk h.armed hf⟩

/-! ## Host operations and launches -/

theorem HostOp.apply_keeps_inv (op : HostOp) {s : State} (h : s.Inv) : (op.apply s).Inv := by
  obtain hstep | hsame := op.apply_cases s
  · exact step_keeps_inv h hstep
  · exact h.of_sameProgramState hsame

theorem State.runOps_keeps_inv (ops : List HostOp) {s : State} (h : s.Inv) : (s.runOps ops).Inv := by
  induction ops generalizing s with
  | nil => exact h
  | cons op ops ih => exact ih (op.apply_keeps_inv h)

/-- A core whose pc is a launch's, with no return address and no wait, meets the invariant as soon as its memory is
canonical. -/
theorem State.Inv.of_launch {s : State} (hm : s.mem.wf = true) (hpc : s.pc = 0x200) (hsp : s.sp = 0)
    (hw : s.waiting = false) (hr : s.released = none) : s.Inv where
  memory := hm
  pcBound := by rw [hpc]; decide
  stackRange j hj := by simp [hsp] at hj
  releasedOnlyArmed h := absurd hr h
  armed := State.armedAtLdk_of_idle hw

/-- What `load` answers when it succeeds, and the size of its ROM (70_reset_and_hazards.md R271). -/
theorem load_eq_ok {rom : List Byte} {q : Quirks} {p : LaunchParams} {s : State} (h : load rom q p = .ok s) :
    0x200 + rom.length < 4096 ∧ s = loadedState rom q p := by
  unfold load at h
  split at h
  · cases h
  · rename_i hlen
    cases h
    exact ⟨Nat.lt_of_not_le hlen, rfl⟩

theorem wf_loadedMemory {rom : List Byte} {p : LaunchParams} (hm : p.initMem.wf = true)
    (hrom : 0x200 + rom.length < 4096) : (loadedMemory rom p).wf = true := by
  have hfont : (p.initMem.writeRun 0 p.font.toList).wf = true := Memory.wf_writeRun hm (by simp [memorySize])
  exact Memory.wf_writeRun hfont (by simp only [programOrigin, memorySize]; omega)

/-- Every successful load of a canonical INIT_MEM begins with the invariant. -/
theorem load_inv {rom : List Byte} {q : Quirks} {p : LaunchParams} {s : State} (hm : p.initMem.wf = true)
    (h : load rom q p = .ok s) : s.Inv := by
  obtain ⟨hrom, rfl⟩ := load_eq_ok h
  exact .of_launch (wf_loadedMemory hm hrom) rfl rfl rfl rfl

end Sys2Proof.Machine

namespace Sys2Proof.Proofs

open Sys2Proof.Machine

/-- Settles O23: the invariant, part by part, over the outcomes of a step. -/
theorem stepKeepsTheInvariant : Obligations.StepKeepsTheInvariant := fun _ _ => step_keeps_inv

/-- Settles O24: a host operation is a step of the core or leaves the program's state alone. -/
theorem hostOperationsKeepTheInvariant : Obligations.HostOperationsKeepTheInvariant :=
  fun op _ => op.apply_keeps_inv

/-- Settles O26: the launch begins with the invariant, and the run keeps it. -/
theorem reachableStatesMeetTheInvariant : Obligations.ReachableStatesMeetTheInvariant := by
  rintro t ⟨rom, q, p, s, ops, hm, hload, rfl⟩
  exact State.runOps_keeps_inv ops (load_inv hm hload)

/-- Settles O22: the reset memory lists no cell, and there is no return address and no wait. -/
theorem resetMeetsTheInvariant : Obligations.ResetMeetsTheInvariant := .of_launch rfl rfl rfl rfl rfl

end Sys2Proof.Proofs
end

section
/-! What an instruction may write and what it may read (10_state.md R21 to R43). -/

namespace Sys2Proof.Machine

open Sys2Proof.Says

/-! ## Writes -/

/-- What neither the fault nor the effect of an instruction changes, the instruction does not change. -/
theorem exec_field {α : Type} (f : State → α) {i : Instr} {s t : State} (h : exec i s = .next t)
    (hfault : ∀ k, f (s.raiseFault k) = f s) (heffect : f (effectOf i s) = f s) : f t = f s := by
  obtain ⟨k, -, rfl⟩ | ⟨-, rfl⟩ := exec_cases h
  · exact hfault k
  · exact heffect

/-- An instruction whose guard passes stores past the font area only. -/
theorem effectOf_readByte_font {i : Instr} {s : State} (hg : guardOf i s = none) {a : Nat} (ha : a < 0x050) :
    (effectOf i s).readByte a = s.readByte a := by
  obtain h | ⟨base, bytes, hbase, -, h⟩ := effectOf_mem_cases hg
  · rw [State.readByte, h]; rfl
  · rw [State.readByte, h]
    exact Memory.read_writeRun_outside (.inl (by omega))

theorem step_readByte_font {s t : State} (h : step s = .next t) {a : Nat} (ha : a < 0x050) :
    t.readByte a = s.readByte a := by
  obtain ⟨-, ⟨-, rfl⟩ | ⟨-, k, -, rfl⟩ | ⟨-, hg, rfl⟩⟩ := step_cases h
  · rfl
  · rfl
  · exact effectOf_readByte_font hg ha

/-! ## Reads: which of the step's parameters an instruction can tell apart (R39, R43) -/

/-- The parameters agree wherever the instruction reads them: each quirk is read by its own instructions (R39), SHIFT_VF
by the shifts of VF (43_alu.md R180, R181), the oracle by RND (R182). -/
def ReadsAlike (i : Instr) (p p' : StepParams) : Prop :=
  match i with
  | .or _ _ | .and _ _ | .xor _ _ => p'.quirks.vfReset = p.quirks.vfReset
  | .shr x _ | .shl x _ => p'.quirks.shifting = p.quirks.shifting ∧ (x = Reg.vf → p'.shiftVF = p.shiftVF)
  | .jmpz _ => p'.quirks.jumping = p.quirks.jumping
  | .draw _ _ _ => p'.quirks.wrap = p.quirks.wrap
  | .sreg _ | .lreg _ => p'.quirks.memory = p.quirks.memory
  | .rnd _ _ => p'.draws = p.draws
  | _ => True

section Parameters

variable {c : CoreState} {p p' : StepParams}

@[simp] theorem CoreState.quirks_withParams : (c.withParams p).quirks = p.quirks := rfl

theorem guardOf_withParams (i : Instr) : guardOf i (c.withParams p') = guardOf i (c.withParams p) := by
  cases i <;> rfl

theorem setBitwise_withParams (h : p'.quirks.vfReset = p.quirks.vfReset) (x : Reg) (b : Byte) :
    ((c.withParams p').setBitwise x b).toCoreState = ((c.withParams p).setBitwise x b).toCoreState := by
  have hq : (c.withParams p').quirks.vfReset = (c.withParams p).quirks.vfReset := h
  rw [State.setBitwise, State.setBitwise, hq]
  split <;> rfl

theorem shiftOperand_withParams (h : p'.quirks.shifting = p.quirks.shifting) (x y : Reg) :
    (c.withParams p').shiftOperand x y = (c.withParams p).shiftOperand x y := by
  have hq : (c.withParams p').quirks.shifting = (c.withParams p).quirks.shifting := h
  rw [State.shiftOperand, State.shiftOperand, hq]
  rfl

theorem setShift_withParams (x : Reg) (r f : Byte) {b b' : Byte} (h : x = Reg.vf → b' = b) :
    ((c.withParams p').setShift x r f b').toCoreState = ((c.withParams p).setShift x r f b).toCoreState := by
  unfold State.setShift
  split
  · rename_i hx; rw [h hx]; rfl
  · rfl

theorem skipIf_withParams (b : Bool) :
    ((c.withParams p').skipIf b).toCoreState = ((c.withParams p).skipIf b).toCoreState := by
  cases b <;> rfl

theorem jumpRegister_withParams (h : p'.quirks.jumping = p.quirks.jumping) (nnn : Addr12) :
    (c.withParams p').jumpRegister nnn = (c.withParams p).jumpRegister nnn := by
  have hq : (c.withParams p').quirks.jumping = (c.withParams p).quirks.jumping := h
  rw [State.jumpRegister, State.jumpRegister, hq]

theorem advanceIndex_withParams (h : p'.quirks.memory = p.quirks.memory) (x : Reg) :
    ((c.withParams p').advanceIndex x).toCoreState = ((c.withParams p).advanceIndex x).toCoreState := by
  have hq : (c.withParams p').quirks.memory = (c.withParams p).quirks.memory := h
  rw [State.advanceIndex, State.advanceIndex, hq]
  split <;> rfl

/-- An instruction does the same to the core under parameters that agree where it reads them. -/
theorem effectOf_withParams {i : Instr} (h : ReadsAlike i p p') :
    (effectOf i (c.withParams p')).toCoreState = (effectOf i (c.withParams p)).toCoreState := by
  cases i
  case or x y => exact setBitwise_withParams h x _
  case and x y => exact setBitwise_withParams h x _
  case xor x y => exact setBitwise_withParams h x _
  case shr x y =>
    rw [effectOf, effectOf, shiftOperand_withParams h.1]
    exact setShift_withParams x _ _ fun hx => congrArg (shrVF · _ _) (h.2 hx)
  case shl x y =>
    rw [effectOf, effectOf, shiftOperand_withParams h.1]
    exact setShift_withParams x _ _ fun hx => congrArg (shlVF · _ _) (h.2 hx)
  case jmpz nnn =>
    rw [effectOf, effectOf, jumpRegister_withParams h]; rfl
  case draw x y n =>
    have hwrap : (c.withParams p').quirks.wrap = (c.withParams p).quirks.wrap := h
    rw [effectOf, effectOf, hwrap]; rfl
  case sreg x => exact advanceIndex_withParams (c := { c with mem := _ }) h x
  case lreg x => exact advanceIndex_withParams (c := { c with v := _ }) h x
  case rnd x nn =>
    have hdraws : (c.withParams p').draws = (c.withParams p).draws := h
    rw [effectOf, effectOf, hdraws]; rfl
  case skeb | skneb | ske | skne | skp | sknp => exact skipIf_withParams _
  case ldk x =>
    cases hw : c.waiting with
    | false => rw [effectOf_ldk_idle x hw, effectOf_ldk_idle x hw]; rfl
    | true =>
      cases hr : c.released with
      | none => rw [effectOf_ldk_armed x hw hr, effectOf_ldk_armed x hw hr]; rfl
      | some k => rw [effectOf_ldk_released x hw hr, effectOf_ldk_released x hw hr]; rfl
  all_goals rfl

/-- An instruction leads to the same core under parameters that agree where it reads them. -/
theorem exec_withParams {i : Instr} {s t : State} (h : exec i s = .next t) (hp : ReadsAlike i s.toStepParams p') :
    ∃ next, exec i (s.toCoreState.withParams p') = .next (t.toCoreState.withParams next) := by
  have hguard : guardOf i (s.toCoreState.withParams p') = guardOf i s := guardOf_withParams i
  rw [exec_eq, hguard]
  obtain ⟨k, hk, rfl⟩ | ⟨hg, rfl⟩ := exec_cases h
  · exact ⟨p', checked_some hk⟩
  · have hcore : (effectOf i (s.toCoreState.withParams p')).toCoreState = (effectOf i s).toCoreState :=
      effectOf_withParams hp
    exact ⟨_, by rw [checked_none hg, ← hcore, State.withParams_toStepParams]⟩

end Parameters

/-- An instruction writes neither the quirks nor SHIFT_VF. -/
theorem exec_quirks {i : Instr} {s t : State} (h : exec i s = .next t) : t.quirks = s.quirks :=
  exec_field (·.quirks) h (fun _ => rfl) (effectOf_quirks i s)

theorem exec_shiftVF {i : Instr} {s t : State} (h : exec i s = .next t) : t.shiftVF = s.shiftVF :=
  exec_field (·.shiftVF) h (fun _ => rfl) (effectOf_shiftVF i s)

theorem exec_draws {i : Instr} {s t : State} (h : exec i s = .next t) (hr : ∀ x nn, i ≠ .rnd x nn) :
    t.draws = s.draws :=
  exec_field (·.draws) h (fun _ => rfl) (effectOf_draws hr)

/-- RND takes the oracle's next answer. -/
theorem exec_rnd_draws {x : Reg} {nn : Byte} {s t : State} (h : exec (.rnd x nn) s = .next t) :
    t.draws = s.draws + 1 := by
  cases h; rfl

/-- The oracle's next number after an instruction is told by the number before it. -/
theorem exec_draws_congr {i : Instr} {s s' t t' : State} (h : exec i s = .next t) (h' : exec i s' = .next t')
    (hd : s'.draws = s.draws) : t'.draws = t.draws := by
  by_cases hr : ∃ x nn, i = .rnd x nn
  · obtain ⟨x, nn, rfl⟩ := hr
    rw [exec_rnd_draws h, exec_rnd_draws h', hd]
  · have hr' : ∀ x nn, i ≠ .rnd x nn := by simpa using hr
    rw [exec_draws h hr', exec_draws h' hr', hd]

theorem StepParams.eq_of_fields {p p' : StepParams} (hq : p.quirks = p'.quirks) (hv : p.shiftVF = p'.shiftVF)
    (hd : p.draws = p'.draws) : p = p' := by
  cases p; cases hq; cases hv; cases hd; rfl

end Sys2Proof.Machine

namespace Sys2Proof.Proofs

open Sys2Proof.Machine Sys2Proof.Says

/-- Settles O13: neither a fault nor an effect writes another register. -/
theorem onlyDestinationsAreWritten : Obligations.OnlyDestinationsAreWritten :=
  fun _ _ _ j h hj => exec_field (·.reg j) h (fun _ => rfl) (effectOf_reg hj)

/-- Settles O14: part by part, neither a fault nor the effect of another instruction writes it. -/
theorem stateIsWrittenByItsInstructionsOnly : Obligations.StateIsWrittenByItsInstructionsOnly := by
  intro i s t h
  refine ⟨fun hi => exec_field (·.i) h (fun _ => rfl) (effectOf_i hi), fun hc hr => ⟨?_, fun j => ?_⟩,
    fun hc hd => ⟨fun p => ?_, ?_⟩, fun hd => exec_field (·.dt) h (fun _ => rfl) (effectOf_dt hd),
    fun hs => exec_field (·.st) h (fun _ => rfl) (effectOf_st hs), fun hb hs a => ?_, fun hk => ⟨?_, ?_⟩,
    exec_draws h⟩
  · exact exec_field (·.sp) h (fun _ => rfl) (effectOf_sp hc hr)
  · exact congrArg (·[j]?.getD 0) (exec_field (·.stack) h (fun _ => rfl) (effectOf_stack hc))
  · exact congrArg (Screen.get · p) (exec_field (·.fb) h (fun _ => rfl) (effectOf_fb hc hd))
  · exact exec_field (·.dirty) h (fun _ => rfl) (effectOf_dirty hc hd)
  · exact congrArg (Memory.read · a) (exec_field (·.mem) h (fun _ => rfl) (effectOf_mem hb hs))
  · exact exec_field (·.waiting) h (fun _ => rfl) (effectOf_waiting hk)
  · exact exec_field (·.released) h (fun _ => rfl) (effectOf_released hk)

/-- Settles O17: a step stores past the font area only, the other host operations store nothing. -/
theorem fontAreaNeverChanges : Obligations.FontAreaNeverChanges := by
  intro op s a ha
  obtain hstep | hsame := op.apply_cases s
  · exact step_readByte_font hstep ha
  · exact congrArg (Memory.read · a) hsame.mem

/-- Settles O18: a step keeps them, the other host operations leave the program's state alone. -/
theorem launchParametersNeverChange : Obligations.LaunchParametersNeverChange := by
  intro op s
  obtain hstep | hsame := op.apply_cases s
  · exact step_quirks_shiftVF hstep
  · exact ⟨hsame.quirks, hsame.shiftVF⟩

/-- Settles O19: a running core steps, only a running core does, and `step` answers one state. -/
theorem stepRelationTakesItsParameters : Obligations.StepRelationTakesItsParameters := by
  refine ⟨fun p c hrun => ?_, fun p c c' hhalt ⟨next, h⟩ => hhalt (step_cases h).1,
    fun s t h => ⟨steps_of_step h, step_quirks_shiftVF h⟩⟩
  obtain ⟨t, h⟩ := exists_step_of_running (s := c.withParams p) hrun
  exact ⟨t.toCoreState, steps_of_step h, fun c' h' => h'.unique (steps_of_step h)⟩

/-- Settles O20: an instruction other than RND reads no draw and takes none. -/
theorem onlyRndAsksTheOracle : Obligations.OnlyRndAsksTheOracle := by
  intro i s t n hr h
  have hreads : ReadsAlike i s.toStepParams { s.toStepParams with draws := n } := by
    cases i
    case rnd x nn => exact absurd rfl (hr x nn)
    all_goals simp [ReadsAlike]
  obtain ⟨next, h'⟩ := exec_withParams h hreads
  have hnext : next = { t.toStepParams with draws := n } :=
    StepParams.eq_of_fields ((exec_quirks h').trans (exec_quirks h).symm) ((exec_shiftVF h').trans (exec_shiftVF h).symm)
      (exec_draws h' hr)
  exact ⟨exec_draws h hr, hnext ▸ h'⟩

/-- Settles O21: the new parameters agree with the old wherever the instruction reads them. -/
theorem quirksChangeTheirInstructionsOnly : Obligations.QuirksChangeTheirInstructionsOnly := by
  intro i s t q sv h hvf hshift hjump hwrap hmem hsv
  have hreads : ReadsAlike i s.toStepParams { s.toStepParams with quirks := q, shiftVF := sv } := by
    cases i
    case or x y => exact hvf ⟨x, y, .inl rfl⟩
    case and x y => exact hvf ⟨x, y, .inr (.inl rfl)⟩
    case xor x y => exact hvf ⟨x, y, .inr (.inr rfl)⟩
    case shr x y => exact ⟨hshift ⟨x, y, .inl rfl⟩, fun hx => hsv ⟨y, .inl (hx ▸ rfl)⟩⟩
    case shl x y => exact ⟨hshift ⟨x, y, .inr rfl⟩, fun hx => hsv ⟨y, .inr (hx ▸ rfl)⟩⟩
    case jmpz nnn => exact hjump ⟨nnn, rfl⟩
    case draw x y n => exact hwrap ⟨x, y, n, rfl⟩
    case sreg x => exact hmem ⟨x, .inl rfl⟩
    case lreg x => exact hmem ⟨x, .inr rfl⟩
    case rnd => rfl
    all_goals trivial
  obtain ⟨next, h'⟩ := exec_withParams h hreads
  have hnext : next = { t.toStepParams with quirks := q, shiftVF := sv } :=
    StepParams.eq_of_fields (exec_quirks h') (exec_shiftVF h') (exec_draws_congr h h' rfl)
  exact hnext ▸ h'

end Sys2Proof.Proofs
end

section
/-! Memory's one form (10_state.md R30), and the state a load builds (R42, R33; 70_reset_and_hazards.md R272). -/

namespace Sys2Proof.Machine

/-! ## The canonical form is determined by what memory reads as -/

namespace Memory

theorem cellOk_of_mem {m : Memory} (h : m.wf = true) {c : Host.Cell} (hc : c ∈ m) : cellOk c = true := by
  induction m with
  | nil => cases hc
  | cons d m ih =>
    obtain ⟨hd, -, hm⟩ := (wf_cons d m).1 h
    obtain rfl | hc := List.mem_cons.1 hc
    · exact hd
    · exact ih hm hc

/-- The cells of a canonical memory stand by rising address. -/
theorem pairwise_of_wf {m : Memory} (h : m.wf = true) : m.Pairwise (·.1 < ·.1) := by
  induction m with
  | nil => exact .nil
  | cons d m ih =>
    obtain ⟨-, hlt, hm⟩ := (wf_cons d m).1 h
    exact .cons hlt (ih hm)

/-- An address that no cell lists reads as it does after a load of nothing. -/
theorem read_of_unlisted {m : Memory} {a : Nat} (h : ∀ c ∈ m, c.1 ≠ a) : m.read a = initialByte a := by
  induction m with
  | nil => rfl
  | cons d m ih =>
    rw [read_cons, if_neg (h d (by simp)).symm, ih fun c hc => h c (by simp [hc])]

/-- A listed address of a canonical memory reads as its cell. -/
theorem read_of_mem {m : Memory} (h : m.wf = true) {c : Host.Cell} (hc : c ∈ m) : m.read c.1 = c.2 := by
  induction m with
  | nil => cases hc
  | cons d m ih =>
    obtain ⟨-, hlt, hm⟩ := (wf_cons d m).1 h
    rw [read_cons]
    obtain rfl | hc := List.mem_cons.1 hc
    · rw [if_pos rfl]
    · rw [if_neg (hlt c hc).ne', ih hm hc]

/-- A canonical memory lists exactly the addresses that read otherwise than after a load of nothing. -/
theorem mem_iff_read {m : Memory} (h : m.wf = true) (c : Host.Cell) :
    c ∈ m ↔ m.read c.1 = c.2 ∧ c.2 ≠ initialByte c.1 := by
  constructor
  · intro hc
    have hok := cellOk_of_mem h hc
    simp only [cellOk, Bool.and_eq_true, bne_iff_ne] at hok
    exact ⟨read_of_mem h hc, hok.2⟩
  · rintro ⟨hread, hne⟩
    by_contra hc
    by_cases hl : ∃ d ∈ m, d.1 = c.1
    · obtain ⟨d, hd, hdc⟩ := hl
      have hval : d.2 = c.2 := by rw [← read_of_mem h hd, hdc, hread]
      exact hc (Prod.ext hdc hval ▸ hd)
    · exact hne (hread ▸ read_of_unlisted fun d hd hdc => hl ⟨d, hd, hdc⟩)

theorem eq_of_read_eq {m m' : Memory} (h : m.wf = true) (h' : m'.wf = true) (hread : ∀ a, m.read a = m'.read a) :
    m = m' := by
  have hirrefl : Std.Irrefl fun c d : Host.Cell => c.1 < d.1 := ⟨fun c => lt_irrefl c.1⟩
  refine List.Pairwise.eq_of_mem_iff (pairwise_of_wf h) (pairwise_of_wf h') fun c => ?_
  rw [mem_iff_read h, mem_iff_read h', hread]

/-- A byte of a run just written. -/
theorem read_writeRun_inside (m : Memory) (base : Nat) (l : List Byte) {j : Nat} (h : j < l.length) :
    (m.writeRun base l).read (base + j) = l[j] := by
  rw [read_writeRun, if_pos (by omega), Nat.add_sub_cancel_left, List.getD_eq_getElem _ _ h]

end Memory

/-! ## The memory a load builds -/

section Load

variable (rom : List Byte) (p : LaunchParams)

theorem read_loadedMemory_rom {j : Nat} (h : j < rom.length) :
    (loadedMemory rom p).read (programOrigin + j) = rom[j] :=
  Memory.read_writeRun_inside _ _ _ h

theorem read_loadedMemory_outside {a : Nat} (h : a < programOrigin ∨ programOrigin + rom.length ≤ a) :
    (loadedMemory rom p).read a = (p.initMem.writeRun 0 p.font.toList).read a :=
  Memory.read_writeRun_outside h

theorem read_loadedMemory_font {a : Nat} (h : a < 80) : (loadedMemory rom p).read a = p.font[a] := by
  have hfont := Memory.read_writeRun_inside p.initMem 0 p.font.toList (j := a) (by simpa using h)
  rw [read_loadedMemory_outside _ _ (.inl (by simp only [programOrigin]; omega))]
  simpa using hfont

theorem read_loadedMemory_initMem {a : Nat} (hfont : 0x050 ≤ a)
    (h : a < programOrigin ∨ programOrigin + rom.length ≤ a) : (loadedMemory rom p).read a = p.initMem.read a := by
  rw [read_loadedMemory_outside _ _ h]
  exact Memory.read_writeRun_outside (.inr (by simpa using hfont))

end Load

/-- No pixel of the clear screen is set. -/
theorem get_blankScreen (p : Pixel) : Screen.get blankScreen p = false := by
  simp [Screen.get, blankScreen]

end Sys2Proof.Machine

namespace Sys2Proof.Proofs

open Sys2Proof.Machine

/-- Settles O27: both memories list exactly the addresses that read otherwise than after a load of nothing. -/
theorem canonicalMemoriesThatReadAlikeAreEqual : Obligations.CanonicalMemoriesThatReadAlikeAreEqual :=
  fun _ _ => Memory.eq_of_read_eq

/-- Settles O56: the loaded memory run by run, the other parts by the definition of the loaded state. -/
theorem loadBuildsTheResetState : Obligations.LoadBuildsTheResetState := by
  refine ⟨fun rom q p s h => ?_, ⟨rfl, fun x => ?_, rfl, rfl, rfl, fun a ha => ?_⟩, by decide⟩
  · obtain ⟨hrom, rfl⟩ := load_eq_ok h
    refine ⟨fun j hj => ?_, fun a ha => read_loadedMemory_font rom p ha,
      fun a ha hout => read_loadedMemory_initMem rom p ha hout, fun hm => wf_loadedMemory hm hrom,
      rfl, fun _ => rfl, rfl, rfl, rfl, rfl, fun j => ?_, get_blankScreen, rfl, fun k => ?_,
      rfl, rfl, rfl, rfl, rfl⟩
    · rw [List.getD_eq_getElem _ _ hj]
      exact read_loadedMemory_rom rom p hj
    · simp only [State.stackEntry, loadedState, Vector.getElem?_replicate]
      split <;> rfl
    · simp only [State.keyDown, loadedState, Vector.getElem?_replicate]
      split <;> rfl
  · simp
  · exact List.getD_eq_default _ _ ha

end Sys2Proof.Proofs
end

section
/-! The stack is not in memory (20_memory.md R66): which instructions can tell one stack from another. -/

namespace Sys2Proof.Machine

/-- The same state with another stack. -/
def State.withStack (s : State) (stack : Vector Word 16) (sp : Fin 17) : State := { s with stack := stack, sp := sp }

section Stack

variable (s : State) (stack : Vector Word 16) (sp : Fin 17)

@[simp] theorem State.quirks_withStack : (s.withStack stack sp).quirks = s.quirks := rfl

/-! ## The updates that distinguish cases make the same choice over another stack -/

theorem State.skipIf_withStack (b : Bool) :
    (s.withStack stack sp).skipIf b = (s.skipIf b).withStack stack sp := by
  cases b <;> rfl

theorem State.setBitwise_withStack (x : Reg) (b : Byte) :
    (s.withStack stack sp).setBitwise x b = (s.setBitwise x b).withStack stack sp := by
  rw [State.setBitwise, State.setBitwise, State.quirks_withStack]
  split <;> rfl

theorem State.setShift_withStack (x : Reg) (r f b : Byte) :
    (s.withStack stack sp).setShift x r f b = (s.setShift x r f b).withStack stack sp := by
  unfold State.setShift
  split <;> rfl

theorem State.advanceIndex_withStack (x : Reg) :
    (s.withStack stack sp).advanceIndex x = (s.advanceIndex x).withStack stack sp := by
  rw [State.advanceIndex, State.advanceIndex, State.quirks_withStack]
  split <;> rfl

/-! ## Instructions other than CALL and RET -/

variable {i : Instr}

/-- CALL and RET alone check the stack. -/
theorem guardOf_withStack (hc : ∀ nnn, i ≠ .call nnn) (hr : i ≠ .ret) :
    guardOf i (s.withStack stack sp) = guardOf i s := by
  cases i
  case call nnn => exact absurd rfl (hc nnn)
  case ret => exact absurd rfl hr
  all_goals rfl

/-- LDK's choice is made by the wait sub-state alone. -/
theorem effectOf_ldk_withStack (x : Reg) :
    effectOf (.ldk x) (s.withStack stack sp) = (effectOf (.ldk x) s).withStack stack sp := by
  cases hw : s.waiting with
  | false => rw [effectOf_ldk_idle x hw, effectOf_ldk_idle x (s := s.withStack stack sp) hw]; rfl
  | true =>
    cases hr : s.released with
    | none => rw [effectOf_ldk_armed x hw hr, effectOf_ldk_armed x (s := s.withStack stack sp) hw hr]; rfl
    | some k => rw [effectOf_ldk_released x hw hr, effectOf_ldk_released x (s := s.withStack stack sp) hw hr]; rfl

/-- No effect but CALL's and RET's reads the stack or writes it. -/
theorem effectOf_withStack (hc : ∀ nnn, i ≠ .call nnn) (hr : i ≠ .ret) :
    effectOf i (s.withStack stack sp) = (effectOf i s).withStack stack sp := by
  cases i
  case call nnn => exact absurd rfl (hc nnn)
  case ret => exact absurd rfl hr
  case skeb | skneb | ske | skne | skp | sknp => exact s.skipIf_withStack stack sp _
  case or x y | and x y | xor x y => exact s.setBitwise_withStack stack sp x _
  case shr x y | shl x y => exact s.setShift_withStack stack sp x _ _ _
  case ldk x => exact effectOf_ldk_withStack s stack sp x
  case sreg x => exact (s.storeBytes s.i.toNat (s.regsUpTo x)).advanceIndex_withStack stack sp x
  case lreg x => exact (s.loadRun x).advanceIndex_withStack stack sp x
  all_goals rfl

/-- With another stack an instruction other than CALL and RET does the same beside it. -/
theorem exec_withStack {t : State} (hc : ∀ nnn, i ≠ .call nnn) (hr : i ≠ .ret) (h : exec i s = .next t) :
    exec i (s.withStack stack sp) = .next (t.withStack stack sp) := by
  rw [exec_eq, guardOf_withStack s stack sp hc hr, effectOf_withStack s stack sp hc hr]
  obtain ⟨k, hk, rfl⟩ | ⟨hg, rfl⟩ := exec_cases h
  · exact checked_some hk
  · exact checked_none hg

end Stack

end Sys2Proof.Machine

namespace Sys2Proof.Proofs

open Sys2Proof.Machine

/-- Settles O16: neither a fault nor an effect writes the stack, and none reads it. -/
theorem stackIsNotInMemory : Obligations.StackIsNotInMemory :=
  fun _ s _ stack sp hc hr h =>
    ⟨exec_field (·.stack) h (fun _ => rfl) (effectOf_stack hc),
      exec_field (·.sp) h (fun _ => rfl) (effectOf_sp hc hr), exec_withStack s stack sp hc hr h⟩

end Sys2Proof.Proofs
end

section
/-! The two round trips of the encoding (30_encoding.md R70 to R89): the encoder gives a decoded word back, so the
decoder gives an encoded instruction back, and what a word of a row, or of no row, decodes to follows from the two. -/

namespace Sys2Proof

/-! ## A word is its fields -/

theorem groupField_cases (w : Word) :
    groupField w = 0x0#4 ∨ groupField w = 0x1#4 ∨ groupField w = 0x2#4 ∨ groupField w = 0x3#4 ∨ groupField w = 0x4#4 ∨
    groupField w = 0x5#4 ∨ groupField w = 0x6#4 ∨ groupField w = 0x7#4 ∨ groupField w = 0x8#4 ∨ groupField w = 0x9#4 ∨
    groupField w = 0xA#4 ∨ groupField w = 0xB#4 ∨ groupField w = 0xC#4 ∨ groupField w = 0xD#4 ∨ groupField w = 0xE#4 ∨
    groupField w = 0xF#4 := by
  generalize groupField w = g
  revert g
  decide

section Fields

variable {w : Word} {g n : BitVec 4} {nn : Byte}

theorem encodeAddr_fields (hg : groupField w = g) : encodeAddr g (nnnField w) = w := by
  apply BitVec.eq_of_toNat_eq
  rw [← hg, toNat_encodeAddr, toNat_groupField, toNat_nnnField]; omega

theorem encodeRegByte_fields (hg : groupField w = g) (hnn : nnField w = nn) : encodeRegByte g (xField w) nn = w := by
  apply BitVec.eq_of_toNat_eq
  rw [← hg, ← hnn, toNat_encodeRegByte, toNat_groupField, val_xField, toNat_nnField]; omega

theorem encodeRegReg_fields (hg : groupField w = g) (hn : nibbleField w = n) :
    encodeRegReg g (xField w) (yField w) n = w := by
  apply BitVec.eq_of_toNat_eq
  rw [← hg, ← hn, toNat_encodeRegReg, toNat_groupField, val_xField, val_yField, toNat_nibbleField]; omega

end Fields

/-! ## The unrecognized space, by the selectors that are taken -/

theorem group8_free_selectors (n : BitVec 4) :
    [0x8#4, 0x9#4, 0xA#4, 0xB#4, 0xC#4, 0xD#4, 0xF#4].contains n = true ↔
      n ∉ [0x0#4, 0x1#4, 0x2#4, 0x3#4, 0x4#4, 0x5#4, 0x6#4, 0x7#4, 0xE#4] := by
  revert n
  decide

theorem unrecognizedWord_iff (w : Word) : unrecognizedWord w = true ↔
    (groupField w = 0x0#4 ∧ nnField w ∉ [0xE0#8, 0xEE#8]) ∨
    (groupField w = 0x5#4 ∧ nibbleField w ≠ 0x0#4) ∨
    (groupField w = 0x8#4 ∧ nibbleField w ∉ [0x0#4, 0x1#4, 0x2#4, 0x3#4, 0x4#4, 0x5#4, 0x6#4, 0x7#4, 0xE#4]) ∨
    (groupField w = 0x9#4 ∧ nibbleField w ≠ 0x0#4) ∨
    (groupField w = 0xE#4 ∧ nnField w ∉ [0x9E#8, 0xA1#8]) ∨
    (groupField w = 0xF#4 ∧
      nnField w ∉ [0x07#8, 0x0A#8, 0x15#8, 0x18#8, 0x1E#8, 0x29#8, 0x33#8, 0x55#8, 0x65#8]) := by
  rw [← group8_free_selectors]
  rcases groupField_cases w with h | h | h | h | h | h | h | h | h | h | h | h | h | h | h | h <;>
    simp only [groupField] at h <;> simp [unrecognizedWord, groupField, nibbleField, nnField, h]

theorem group8_named_selectors (n : BitVec 4) :
    n ∉ [0x0#4, 0x1#4, 0x2#4, 0x3#4, 0x4#4, 0x5#4, 0x6#4, 0x7#4, 0xE#4] ↔ 0x8 ≤ n.toNat ∧ n.toNat ≠ 0xE := by
  revert n
  decide

/-! ## Encoding a decoded word -/

/-- `i` is a well-formed instruction whose word is `w` but for the bits 11 to 8 of CLS and RET (R77, log 26). -/
def Reencodes (w : Word) (i : Instr) : Prop :=
  i.wellFormed = true ∧ encode i = if i = .cls ∨ i = .ret then w &&& 0xF0FF else w

section Reencodes

variable {w : Word}

theorem Reencodes.of_encode_eq {i : Instr} (hi : i.wellFormed = true) (h : encode i = w)
    (hne : ¬(i = .cls ∨ i = .ret)) : Reencodes w i :=
  ⟨hi, by rw [if_neg hne, h]⟩

theorem Reencodes.unrecognized (h : unrecognizedWord w = true) : Reencodes w (.unrecognized w) :=
  .of_encode_eq h rfl (by simp)

theorem decodeGroup0_reencodes (hg : groupField w = 0x0#4) : Reencodes w (decodeGroup0 w) := by
  have hw {n} (h : nnField w = n) : n.setWidth 16 = w &&& 0xF0FF := by
    refine .trans ?_ (and_group_low w).symm
    simp [hg, h]
  unfold decodeGroup0
  split
  case h_3 => exact .unrecognized ((unrecognizedWord_iff w).2 (by simp_all))
  all_goals next h => exact ⟨rfl, hw h⟩

theorem decodeGroup5_reencodes (hg : groupField w = 0x5#4) : Reencodes w (decodeGroup5 w) := by
  unfold decodeGroup5
  split
  case h_1 h => exact .of_encode_eq rfl (encodeRegReg_fields hg h) (by simp)
  case h_2 => exact .unrecognized ((unrecognizedWord_iff w).2 (by simp_all))

theorem decodeGroup8_reencodes (hg : groupField w = 0x8#4) : Reencodes w (decodeGroup8 w) := by
  unfold decodeGroup8
  split
  case h_10 => exact .unrecognized ((unrecognizedWord_iff w).2 (by simp_all))
  all_goals next h => exact .of_encode_eq rfl (encodeRegReg_fields hg h) (by simp)

theorem decodeGroup9_reencodes (hg : groupField w = 0x9#4) : Reencodes w (decodeGroup9 w) := by
  unfold decodeGroup9
  split
  case h_1 h => exact .of_encode_eq rfl (encodeRegReg_fields hg h) (by simp)
  case h_2 => exact .unrecognized ((unrecognizedWord_iff w).2 (by simp_all))

theorem decodeGroupE_reencodes (hg : groupField w = 0xE#4) : Reencodes w (decodeGroupE w) := by
  unfold decodeGroupE
  split
  case h_3 => exact .unrecognized ((unrecognizedWord_iff w).2 (by simp_all))
  all_goals next h => exact .of_encode_eq rfl (encodeRegByte_fields hg h) (by simp)

theorem decodeGroupF_reencodes (hg : groupField w = 0xF#4) : Reencodes w (decodeGroupF w) := by
  unfold decodeGroupF
  split
  case h_10 => exact .unrecognized ((unrecognizedWord_iff w).2 (by simp_all))
  all_goals next h => exact .of_encode_eq rfl (encodeRegByte_fields hg h) (by simp)

end Reencodes

/-- Group by group: a named instruction is put together from the fields it was read from. -/
theorem decode_reencodes (w : Word) : Reencodes w (decode w) := by
  rcases groupField_cases w with h | h | h | h | h | h | h | h | h | h | h | h | h | h | h | h <;>
    simp only [decode, h]
  · exact decodeGroup0_reencodes h
  · exact .of_encode_eq rfl (encodeAddr_fields h) (by simp)
  · exact .of_encode_eq rfl (encodeAddr_fields h) (by simp)
  · exact .of_encode_eq rfl (encodeRegByte_fields h rfl) (by simp)
  · exact .of_encode_eq rfl (encodeRegByte_fields h rfl) (by simp)
  · exact decodeGroup5_reencodes h
  · exact .of_encode_eq rfl (encodeRegByte_fields h rfl) (by simp)
  · exact .of_encode_eq rfl (encodeRegByte_fields h rfl) (by simp)
  · exact decodeGroup8_reencodes h
  · exact decodeGroup9_reencodes h
  · exact .of_encode_eq rfl (encodeAddr_fields h) (by simp)
  · exact .of_encode_eq rfl (encodeAddr_fields h) (by simp)
  · exact .of_encode_eq rfl (encodeRegByte_fields h rfl) (by simp)
  · exact .of_encode_eq rfl (encodeRegReg_fields h rfl) (by simp)
  · exact decodeGroupE_reencodes h
  · exact decodeGroupF_reencodes h

theorem decode_wellFormed (w : Word) : (decode w).wellFormed = true := (decode_reencodes w).1

theorem encode_decode (w : Word) :
    encode (decode w) = if decode w = .cls ∨ decode w = .ret then w &&& 0xF0FF else w :=
  (decode_reencodes w).2

/-- Unrecognized carries the word it was decoded from (R87). -/
theorem eq_of_decode_unrecognized {w raw : Word} (h : decode w = .unrecognized raw) : raw = w := by
  have hw := encode_decode w
  rw [h] at hw
  simpa [encode] using hw

/-! ## Decoding follows the opcode map -/

/-- No row of the map compares the bits 11 to 8 that the encoder clears in CLS and RET. -/
theorem matchesWord_encode_decode {r : OpcodeRow} (hr : r ∈ opcodeMap) (w : Word) :
    r.matchesWord (encode (decode w)) = r.matchesWord w := by
  have hmask : ∀ r ∈ opcodeMap, 0xF0FF &&& r.mask = r.mask := by decide
  rw [encode_decode]
  split
  · rw [OpcodeRow.matchesWord, BitVec.and_assoc, hmask r hr, OpcodeRow.matchesWord]
  · rfl

theorem Laws.encodesItsRow (i : Instr) : EncodesItsRow.Statement i := by
  cases i with
  | cls => exact EncodesItsRow.cls
  | ret => exact EncodesItsRow.ret
  | jmp nnn => exact EncodesItsRow.jmp nnn
  | call nnn => exact EncodesItsRow.call nnn
  | skeb x nn => exact EncodesItsRow.skeb x nn
  | skneb x nn => exact EncodesItsRow.skneb x nn
  | ske x y => exact EncodesItsRow.ske x y
  | skne x y => exact EncodesItsRow.skne x y
  | ldb x nn => exact EncodesItsRow.ldb x nn
  | addb x nn => exact EncodesItsRow.addb x nn
  | ld x y => exact EncodesItsRow.ld x y
  | or x y => exact EncodesItsRow.or x y
  | and x y => exact EncodesItsRow.and x y
  | xor x y => exact EncodesItsRow.xor x y
  | add x y => exact EncodesItsRow.add x y
  | sub x y => exact EncodesItsRow.sub x y
  | subr x y => exact EncodesItsRow.subr x y
  | shr x y => exact EncodesItsRow.shr x y
  | shl x y => exact EncodesItsRow.shl x y
  | ldi nnn => exact EncodesItsRow.ldi nnn
  | jmpz nnn => exact EncodesItsRow.jmpz nnn
  | rnd x nn => exact EncodesItsRow.rnd x nn
  | draw x y n => exact EncodesItsRow.draw x y n
  | skp x => exact EncodesItsRow.skp x
  | sknp x => exact EncodesItsRow.sknp x
  | ldft x => exact EncodesItsRow.ldft x
  | ldk x => exact EncodesItsRow.ldk x
  | lddt x => exact EncodesItsRow.lddt x
  | ldst x => exact EncodesItsRow.ldst x
  | addi x => exact EncodesItsRow.addi x
  | font x => exact EncodesItsRow.font x
  | bcd x => exact EncodesItsRow.bcd x
  | sreg x => exact EncodesItsRow.sreg x
  | lreg x => exact EncodesItsRow.lreg x
  | unrecognized raw => exact EncodesItsRow.unrecognized raw

/-- A word matches the row of the mnemonic it decodes to and no other. -/
theorem matchesWord_iff_mnemonic {r : OpcodeRow} (hr : r ∈ opcodeMap) (w : Word) :
    r.matchesWord w = true ↔ r.mnemonic = (decode w).mnemonic := by
  rw [← matchesWord_encode_decode hr]
  exact Laws.encodesItsRow _ (decode_wellFormed w) r hr

theorem opcodeMap_mnemonics_nodup : (opcodeMap.map (·.mnemonic)).Nodup := by decide

/-- Every named instruction has a row. -/
theorem unrecognized_or_exists_row (i : Instr) :
    (∃ raw, i = .unrecognized raw) ∨ ∃ r ∈ opcodeMap, r.mnemonic = i.mnemonic := by
  cases i
  case unrecognized raw => exact .inl ⟨raw, rfl⟩
  all_goals exact .inr (by rw [Instr.mnemonic]; decide)

theorem decode_of_matches_none {w : Word} (h : ∀ r ∈ opcodeMap, r.matchesWord w = false) :
    decode w = .unrecognized w := by
  obtain ⟨raw, hraw⟩ | ⟨r, hr, hname⟩ := unrecognized_or_exists_row (decode w)
  · rw [hraw, eq_of_decode_unrecognized hraw]
  · have hmatch := (matchesWord_iff_mnemonic hr w).2 hname
    simp [h r hr] at hmatch

/-! ## Decoding an encoded instruction -/

@[simp] theorem toFin_fieldBits (n : Fin 16) : (fieldBits n).toFin = n := rfl

/-- For a named instruction the selectors lead to its arm, and each operand stands in its field. -/
theorem decode_encode {i : Instr} (hi : i.wellFormed = true) : decode (encode i) = i := by
  cases i
  case cls | ret => rfl
  case jmp | call | ldi | jmpz | skeb | skneb | ldb | addb | rnd | draw => simp [encode, decode]
  case ske => simp [encode, decode, decodeGroup5]
  case skne => simp [encode, decode, decodeGroup9]
  case ld | or | and | xor | add | sub | subr | shr | shl => simp [encode, decode, decodeGroup8]
  case skp | sknp => simp [encode, decode, decodeGroupE]
  case ldft | ldk | lddt | ldst | addi | font | bcd | sreg | lreg => simp [encode, decode, decodeGroupF]
  case unrecognized raw => exact decode_of_matches_none (Laws.unrecognizedWord_matches_none hi)

theorem decode_eq_of_encode_eq {i : Instr} {w : Word} (h : encode i = w) (hi : i.wellFormed = true) : decode w = i :=
  h ▸ decode_encode hi

theorem decode_unrecognized_iff (w : Word) : decode w = .unrecognized w ↔ unrecognizedWord w = true := by
  constructor
  · intro h
    have hw := decode_wellFormed w
    rwa [h] at hw
  · exact decode_eq_of_encode_eq (i := .unrecognized w) rfl

/-! ## Decoding a word that matches a row -/

section Rows

variable {w v : Word} {i : Instr}

theorem decode_of_addr_row (h : w &&& 0xF000 = v) (he : encode i = encodeAddr (v.extractLsb' 12 4) (nnnField w))
    (hi : i.wellFormed = true) : decode w = i :=
  decode_eq_of_encode_eq (he.trans (encodeAddr_fields (groupField_of_mask h (by decide)))) hi

theorem decode_of_regByte_row (h : w &&& 0xF000 = v)
    (he : encode i = encodeRegByte (v.extractLsb' 12 4) (xField w) (nnField w)) (hi : i.wellFormed = true) :
    decode w = i :=
  decode_eq_of_encode_eq (he.trans (encodeRegByte_fields (groupField_of_mask h (by decide)) rfl)) hi

theorem decode_of_regReg_row (h : w &&& 0xF000 = v)
    (he : encode i = encodeRegReg (v.extractLsb' 12 4) (xField w) (yField w) (nibbleField w))
    (hi : i.wellFormed = true) : decode w = i :=
  decode_eq_of_encode_eq (he.trans (encodeRegReg_fields (groupField_of_mask h (by decide)) rfl)) hi

theorem decode_of_nibble_row (h : w &&& 0xF00F = v)
    (he : encode i = encodeRegReg (v.extractLsb' 12 4) (xField w) (yField w) (v.extractLsb' 0 4))
    (hi : i.wellFormed = true) : decode w = i :=
  decode_eq_of_encode_eq
    (he.trans (encodeRegReg_fields (groupField_of_mask h (by decide)) (nibbleField_of_mask h (by decide)))) hi

theorem decode_of_low_byte_row (h : w &&& 0xF0FF = v)
    (he : encode i = encodeRegByte (v.extractLsb' 12 4) (xField w) (v.extractLsb' 0 8)) (hi : i.wellFormed = true) :
    decode w = i :=
  decode_eq_of_encode_eq
    (he.trans (encodeRegByte_fields (groupField_of_mask h (by decide)) (nnField_of_mask h (by decide)))) hi

/-- The rows of CLS and RET leave out the bits 11 to 8 (R77), so their words are not the encoder's. -/
theorem decode_cls_row (h : w &&& 0xF0FF = 0x00E0) : decode w = .cls := by
  have hg : groupField w = 0x0#4 := groupField_of_mask h (by decide)
  have hnn : nnField w = 0xE0#8 := nnField_of_mask h (by decide)
  simp [decode, decodeGroup0, hg, hnn]

theorem decode_ret_row (h : w &&& 0xF0FF = 0x00EE) : decode w = .ret := by
  have hg : groupField w = 0x0#4 := groupField_of_mask h (by decide)
  have hnn : nnField w = 0xEE#8 := nnField_of_mask h (by decide)
  simp [decode, decodeGroup0, hg, hnn]

end Rows

/-! ## The operands of R73, read by arithmetic -/

theorem ofNat_eq_nnnField (w : Word) : BitVec.ofNat 12 (w.toNat % 4096) = nnnField w := by
  rw [← toNat_nnnField, BitVec.ofNat_toNat, BitVec.setWidth_eq]

theorem ofNat_eq_nnField (w : Word) : BitVec.ofNat 8 (w.toNat % 256) = nnField w := by
  rw [← toNat_nnField, BitVec.ofNat_toNat, BitVec.setWidth_eq]

theorem ofNat_eq_xField (w : Word) : Fin.ofNat 16 (w.toNat / 256 % 16) = xField w := by
  rw [← val_xField, Fin.ofNat_val_eq_self]

theorem ofNat_eq_yField (w : Word) : Fin.ofNat 16 (w.toNat / 16 % 16) = yField w := by
  rw [← val_yField, Fin.ofNat_val_eq_self]

theorem ofNat_eq_nField (w : Word) : Fin.ofNat 16 (w.toNat % 16) = nField w := by
  rw [← val_nField, Fin.ofNat_val_eq_self]

end Sys2Proof

namespace Sys2Proof.Proofs

/-- Settles O5: the decoder's arm of each instruction reads the fields the encoder wrote. -/
theorem decodeEncodeRoundTrip : Obligations.DecodeEncodeRoundTrip :=
  fun _ => decode_encode

/-- Settles O6: group by group, the fields of a word put together are the word. -/
theorem encodeDecodeRoundTrip : Obligations.EncodeDecodeRoundTrip := decode_reencodes

/-- Settles O3: a word matches exactly the row of the mnemonic it decodes to. -/
theorem opcodeMapIsUnambiguous : Obligations.OpcodeMapIsUnambiguous := by
  refine fun w => ⟨fun r hr r' hr' h h' => ?_, fun r hr h => ((matchesWord_iff_mnemonic hr w).1 h).symm,
    decode_of_matches_none⟩
  rw [matchesWord_iff_mnemonic hr] at h
  rw [matchesWord_iff_mnemonic hr'] at h'
  exact List.inj_on_of_nodup_map opcodeMap_mnemonics_nodup hr hr' (h.trans h'.symm)

/-- Settles O4: the unrecognized space by its fields, then the fields as numbers. -/
theorem unrecognizedWordsAreNoOps : Obligations.UnrecognizedWordsAreNoOps := by
  refine ⟨fun w => ?_, fun w raw => eq_of_decode_unrecognized, fun _ _ => rfl⟩
  rw [decode_unrecognized_iff, unrecognizedWord_iff, group8_named_selectors, toNat_nibbleField]
  simp only [← BitVec.toNat_inj, toNat_groupField, toNat_nnField, toNat_nibbleField, BitVec.toNat_ofNat, Nat.reduceMod,
    Nat.reducePow, List.mem_cons, List.not_mem_nil, or_false, not_or, ne_eq]

/-- Settles O2: a word of a row is the encoder's word of the row's instruction with the word's fields, but for the
ignored bits of CLS and RET. -/
theorem rowsDecodeWithTheirOperands : Obligations.RowsDecodeWithTheirOperands := by
  intro w
  rw [ofNat_eq_nnnField, ofNat_eq_nnField, ofNat_eq_xField, ofNat_eq_yField, ofNat_eq_nField]
  exact ⟨decode_cls_row, decode_ret_row, (decode_of_addr_row · rfl rfl), (decode_of_addr_row · rfl rfl),
    (decode_of_regByte_row · rfl rfl), (decode_of_regByte_row · rfl rfl), (decode_of_nibble_row · rfl rfl),
    (decode_of_nibble_row · rfl rfl), (decode_of_regByte_row · rfl rfl), (decode_of_regByte_row · rfl rfl),
    (decode_of_nibble_row · rfl rfl), (decode_of_nibble_row · rfl rfl), (decode_of_nibble_row · rfl rfl),
    (decode_of_nibble_row · rfl rfl), (decode_of_nibble_row · rfl rfl), (decode_of_nibble_row · rfl rfl),
    (decode_of_nibble_row · rfl rfl), (decode_of_nibble_row · rfl rfl), (decode_of_nibble_row · rfl rfl),
    (decode_of_addr_row · rfl rfl), (decode_of_addr_row · rfl rfl), (decode_of_regByte_row · rfl rfl),
    (decode_of_regReg_row · rfl rfl), (decode_of_low_byte_row · rfl rfl), (decode_of_low_byte_row · rfl rfl),
    (decode_of_low_byte_row · rfl rfl), (decode_of_low_byte_row · rfl rfl), (decode_of_low_byte_row · rfl rfl),
    (decode_of_low_byte_row · rfl rfl), (decode_of_low_byte_row · rfl rfl), (decode_of_low_byte_row · rfl rfl),
    (decode_of_low_byte_row · rfl rfl), (decode_of_low_byte_row · rfl rfl), (decode_of_low_byte_row · rfl rfl)⟩

/-- Settles O1: each word is a closed one, and the decoder runs on it. -/
theorem sampleWordsDecode : Obligations.SampleWordsDecode := by
  unfold Obligations.SampleWordsDecode
  decide

end Sys2Proof.Proofs
end

section
/-! The step itself: the instruction it runs, when it answers a next state, and where it leaves pc (40_step.md R101 to
R110). -/

namespace Sys2Proof

/-- The opcode two bytes spell, as 20_memory.md R52 writes it. -/
theorem wordOfBytes_eq_or (hi lo : Byte) : wordOfBytes hi lo = (hi.setWidth 16 <<< 8) ||| lo.setWidth 16 := by
  rw [wordOfBytes, BitVec.append_def, BitVec.shiftLeftZeroExtend_eq, BitVec.setWidth'_eq]

end Sys2Proof

namespace Sys2Proof.Machine

variable {s : State}

/-! ## The branches of a step -/

theorem step_of_halted {k : FaultKind} (h : s.halt = some k) : step s = .fault (.halted k) := by
  simp only [step, h, haltedStep]

theorem step_of_canFetch (h : s.halt = none) (hf : s.canFetch = true) : step s = exec s.fetchInstr s.advancePc := by
  simp only [step, h, hf, if_true]

theorem step_of_not_canFetch (h : s.halt = none) (hf : ¬ s.canFetch = true) :
    step s = .next (s.raiseFault .fetchOutOfBounds) := by
  simp only [step, h, hf]; rfl

/-- Every instruction answers a next state: the fault its check names, or its effect. -/
theorem exists_exec (i : Instr) (s : State) : ∃ t, exec i s = .next t := by
  cases hg : guardOf i s with
  | none => exact ⟨_, exec_of_guard hg⟩
  | some k => exact ⟨_, (exec_eq i s).trans (checked_some hg)⟩

/-! ## The values pc can take -/

/-- A skip leaves pc at a + 2 or takes it to a + 4 (R107). -/
theorem State.pc_skipIf_advancePc (c : Bool) :
    (s.advancePc.skipIf c).pc = s.pc + 2 ∨ (s.advancePc.skipIf c).pc = s.pc + 4 := by
  cases c
  · exact .inl rfl
  · exact .inr (BitVec.add_assoc _ _ _)

/-- LDK rewinds pc to a or goes on at a + 2 (R108). -/
theorem pc_effectOf_ldk_advancePc (x : Reg) :
    (effectOf (.ldk x) s.advancePc).pc = s.pc ∨ (effectOf (.ldk x) s.advancePc).pc = s.pc + 2 := by
  have hrewind : s.pc + 2 - 2 = s.pc := BitVec.add_sub_cancel _ _
  obtain ⟨-, h⟩ | ⟨-, h⟩ | ⟨k, -, h⟩ := effectOf_ldk_cases x s.advancePc <;> rw [h]
  · exact .inl hrewind
  · exact .inl hrewind
  · exact .inr rfl

/-- JMPZ's target is the exact sum (42_control_flow.md R147). -/
theorem toNat_addrOperand_add_byteOperand (nnn : Addr12) (b : Byte) :
    (addrOperand nnn + byteOperand b).toNat = nnn.toNat + b.toNat := by
  have hn := nnn.isLt
  have hb := b.isLt
  rw [BitVec.toNat_add_of_lt] <;> rw [toNat_addrOperand, toNat_byteOperand]
  omega

/-- JMPZ adds V0 or V[nnn[11:8]] (42_control_flow.md R147). -/
theorem State.jumpRegister_cases (nnn : Addr12) :
    s.jumpRegister nnn = 0 ∨ s.jumpRegister nnn = Fin.ofNat 16 (nnn.toNat / 256) := by
  unfold State.jumpRegister
  split
  · exact .inr (Fin.ext (by simp [Nat.shiftRight_eq_div_pow]))
  · exact .inl rfl

/-- The entry RET pops from a stack that is not empty. -/
theorem State.top_eq_stackEntry (h : s.sp ≠ 0) : s.top = s.stackEntry (s.sp.val - 1) := by
  rw [State.pop_stackEntry_top, State.sp_pop s h]

end Sys2Proof.Machine

namespace Sys2Proof.Proofs

open Sys2Proof.Machine

/-- Settles O12: a step that does not fault is the effect of the fetched instruction on the advanced state. -/
theorem nextPcIsOneOfTheListed : Obligations.NextPcIsOneOfTheListed := by
  intro s t h hhalt
  obtain ⟨-, ⟨-, rfl⟩ | ⟨-, k, -, rfl⟩ | ⟨-, hg, rfl⟩⟩ := step_cases h
  · simp at hhalt
  · simp at hhalt
  clear h hhalt
  generalize s.fetchInstr = i at hg ⊢
  cases i
  case ret =>
    have htop := State.top_eq_stackEntry ((checkPop_eq_none _).1 hg)
    exact .inr (.inr (.inr (.inr (.inr ⟨rfl, congrArg (· + 2) htop⟩))))
  case jmp nnn => exact .inr (.inr (.inr (.inl ⟨nnn, .inl rfl, toNat_addrOperand nnn⟩)))
  case call nnn => exact .inr (.inr (.inr (.inl ⟨nnn, .inr rfl, toNat_addrOperand nnn⟩)))
  case jmpz nnn =>
    have hpc := toNat_addrOperand_add_byteOperand nnn (s.reg (s.jumpRegister nnn))
    refine .inr (.inr (.inr (.inr (.inl ⟨nnn, rfl, ?_⟩))))
    obtain hx | hx := s.jumpRegister_cases nnn
    · exact .inl (hx ▸ hpc)
    · exact .inr (hx ▸ hpc)
  case ldk x =>
    obtain hpc | hpc := pc_effectOf_ldk_advancePc x
    · exact .inr (.inr (.inl ⟨hpc, x, rfl⟩))
    · exact .inl ⟨hpc, by simp⟩
  case skeb | skneb | ske | skne | skp | sknp =>
    rw [effectOf]
    obtain hpc | hpc := State.pc_skipIf_advancePc _
    · exact .inl ⟨hpc, by simp⟩
    · exact .inr (.inl ⟨hpc, by simp⟩)
  all_goals exact .inl ⟨by simp [effectOf], by simp⟩

/-- Settles O7: R52's word is the one the step decodes. -/
theorem stepRunsTheDecodedInstruction : Obligations.StepRunsTheDecodedInstruction := by
  intro s i hrun hpc hi
  have hfetch : s.fetchInstr = i := by rw [State.fetchInstr, State.fetchWord, wordOfBytes_eq_or, hi]
  rw [step_of_canFetch hrun (s.canFetch_iff.2 hpc), hfetch]
  rfl

/-- Settles O8: the fetch check and the check of HALT, the two branches of a step that execute nothing. -/
theorem fetchFaultsAndHaltedSteps : Obligations.FetchFaultsAndHaltedSteps :=
  ⟨fun s hrun hpc => step_of_not_canFetch hrun fun hf => Nat.not_le_of_gt hpc (s.canFetch_iff.1 hf),
    fun _ _ => step_of_halted⟩

/-- Settles O9: a step that answers a next state was taken by a running core, a running core steps, and an instruction
is its check and then its effect. -/
theorem runningCoreAlwaysSteps : Obligations.RunningCoreAlwaysSteps :=
  ⟨fun _ => ⟨fun ⟨_, h⟩ => (step_cases h).1, exists_step_of_running⟩, exists_exec⟩

end Sys2Proof.Proofs
end

section
/-! The display (41_display.md): the pixels a sprite covers, CLS and DRAW, what the host may write of it, and the order of
the color model. -/

namespace Sys2Proof.Machine

open Sys2Proof.Says

/-! ## The pixels a sprite covers, found from the sprite and from the pixel (R120, R122, R123, R130) -/

section Sprite

variable {c0 r0 b j : Nat} {c : Fin 64} {r : Fin 32}

/-- With `wrap` on, a pixel's distance from the start coordinate modulo the display's size is its place in the
sprite. -/
theorem pixelAt_wrap_eq_some_iff (hc0 : c0 < 64) (hr0 : r0 < 32) (hb : b < 64) (hj : j < 32) :
    pixelAt true (c0 + b) (r0 + j) = some (c, r) ↔ b = (c.val + 64 - c0) % 64 ∧ j = (r.val + 32 - r0) % 32 := by
  simp only [pixelAt, if_true, Option.some.injEq, Prod.mk.injEq, Fin.ext_iff, Fin.val_ofNat]
  omega

/-- With `wrap` off, a pixel lies right of and below the start coordinate, at the distance of its place in the sprite. -/
theorem pixelAt_clip_eq_some_iff :
    pixelAt false (c0 + b) (r0 + j) = some (c, r) ↔ c0 + b = c.val ∧ r0 + j = r.val := by
  simp only [pixelAt, Bool.false_eq_true, if_false, Option.dite_none_right_eq_some, Option.some.injEq, Prod.mk.injEq,
    Fin.ext_iff, exists_prop]
  omega

end Sprite

/-- The pixels DRAW toggles, in its order. -/
def State.spriteOf (s : State) (x y : Reg) (n : Fin 16) : List Pixel :=
  spritePixels s.quirks.wrap ((s.reg x).toNat % 64) ((s.reg y).toNat % 32) (s.readBytes s.i.toNat n.val)

section Draw

variable {s t : State} (x y : Reg) (n : Fin 16)

theorem State.getD_readBytes {base len j : Nat} (h : j < len) :
    (s.readBytes base len).getD j 0 = s.readByte (base + j) := by
  rw [State.readBytes, List.getD_eq_getElem _ _ (by simpa using h), Memory.getElem_readRun, State.readByte]

/-- DRAW toggles the pixels its sprite covers. -/
theorem State.mem_spriteOf_iff (c : Fin 64) (r : Fin 32) :
    (c, r) ∈ s.spriteOf x y n ↔ spriteCovers s x y n.val c r := by
  have hx : (s.reg x).toNat % 64 < 64 := Nat.mod_lt _ (by decide)
  have hy : (s.reg y).toNat % 32 < 32 := Nat.mod_lt _ (by decide)
  rw [State.spriteOf, mem_spritePixels, State.readBytes, Memory.length_readRun, ← State.readBytes]
  unfold spriteCovers
  cases s.quirks.wrap with
  | true =>
    rw [if_pos rfl]
    constructor
    · rintro ⟨j, hj, b, hb, hbit, hp⟩
      obtain ⟨rfl, rfl⟩ := (pixelAt_wrap_eq_some_iff hx hy (by omega) (by omega)).1 hp
      exact ⟨hb, hj, State.getD_readBytes hj ▸ hbit⟩
    · rintro ⟨hb, hj, hbit⟩
      exact ⟨_, hj, _, hb, (State.getD_readBytes hj).symm ▸ hbit,
        (pixelAt_wrap_eq_some_iff hx hy (by omega) (by omega)).2 ⟨rfl, rfl⟩⟩
  | false =>
    rw [if_neg Bool.false_ne_true]
    constructor
    · rintro ⟨j, hj, b, hb, hbit, hp⟩
      obtain ⟨hc, hr⟩ := pixelAt_clip_eq_some_iff.1 hp
      obtain rfl : b = c.val - (s.reg x).toNat % 64 := by omega
      obtain rfl : j = r.val - (s.reg y).toNat % 32 := by omega
      exact ⟨by omega, hb, by omega, hj, State.getD_readBytes hj ▸ hbit⟩
    · rintro ⟨hc, hb, hr, hj, hbit⟩
      exact ⟨_, hj, _, hb, (State.getD_readBytes hj).symm ▸ hbit,
        pixelAt_clip_eq_some_iff.2 ⟨Nat.add_sub_of_le hc, Nat.add_sub_of_le hr⟩⟩

/-- Some pixel under the sprite has a property, in both ways of naming the sprite's pixels. -/
theorem State.exists_mem_spriteOf_iff (P : Pixel → Prop) :
    (∃ p ∈ s.spriteOf x y n, P p) ↔ ∃ c r, spriteCovers s x y n.val c r ∧ P (c, r) := by
  simp only [Prod.exists, State.mem_spriteOf_iff]

/-! ## DRAW's effect on the parts it writes -/

/-- The canvas of DRAW, by the sprite's pixels. -/
theorem State.drawSprite_spriteOf :
    let k := drawSprite s.fb (s.reg x) (s.reg y) (s.readBytes s.i.toNat n.val) s.quirks.wrap
    (∀ p, k.fb.get p = (s.pixel p ^^ decide (p ∈ s.spriteOf x y n))) ∧
      (k.collision = true ↔ ∃ p ∈ s.spriteOf x y n, s.pixel p = true) ∧
      (k.changed = true ↔ ∃ p, p ∈ s.spriteOf x y n) :=
  drawSprite_spec _ _ _ _ _ (by simp only [State.readBytes, Memory.length_readRun]; omega)

/-- Each pixel of the sprite is toggled, the others stay. -/
theorem pixel_effectOf_draw (p : Pixel) :
    (effectOf (.draw x y n) s).pixel p = (s.pixel p ^^ decide (p ∈ s.spriteOf x y n)) :=
  (State.drawSprite_spriteOf x y n).1 p

/-- VF reports whether a pixel of the sprite was set. -/
theorem reg_vf_effectOf_draw :
    (effectOf (.draw x y n) s).reg 15 = if ∃ p ∈ s.spriteOf x y n, s.pixel p = true then 1 else 0 := by
  have hflag := (State.drawSprite_spriteOf (s := s) x y n).2.1
  rw [effectOf, State.setCanvas_eq]
  refine (State.reg_setReg_same _ _ _).trans ?_
  simp only [collisionFlag, flagByte, hflag]

/-- DIRTY is set by a sprite that has a pixel. -/
theorem dirty_effectOf_draw :
    (effectOf (.draw x y n) s).dirty = true ↔ s.dirty = true ∨ ∃ p, p ∈ s.spriteOf x y n := by
  rw [← (State.drawSprite_spriteOf x y n).2.2, ← Bool.or_eq_true]
  rfl

/-- In bounds, DRAW answers its effect. -/
theorem exec_draw_of_inBounds (h : s.i.toNat + n.val ≤ 4096) :
    exec (.draw x y n) s = .next (effectOf (.draw x y n) s) :=
  exec_of_guard ((checkRead_eq_none _ _).2 h)

/-- The sprite depends on the memory, I, the two registers and the quirk alone, so DRAW leaves it as it was. -/
theorem State.spriteOf_effectOf_draw {x y : Reg} (hx : x ≠ 15) (hy : y ≠ 15) :
    (effectOf (.draw x y n) s).spriteOf x y n = s.spriteOf x y n := by
  have hregx : (effectOf (.draw x y n) s).reg x = s.reg x := effectOf_reg hx
  have hregy : (effectOf (.draw x y n) s).reg y = s.reg y := effectOf_reg hy
  simp only [State.spriteOf, hregx, hregy]
  rfl

end Draw

/-! ## What the host may write of the display and the timers (R126; 60_exceptions.md R250 to R254) -/

/-- Recording a release writes the wait sub-state and takes a draw, and nothing else (60_exceptions.md R253). -/
theorem State.capture_frame (s : State) (k : Key) :
    ∃ w r d, s.capture k = { s with waiting := w, released := r, draws := d } := by
  unfold State.capture
  split
  · cases s.released <;> exact ⟨_, _, _, rfl⟩
  · exact ⟨_, _, _, rfl⟩

/-- A host operation other than a step, a tick and clearing DIRTY is a key event: it writes the keypad, HALT and the draw
counter, and nothing else. -/
theorem HostOp.apply_keyEvent_frame {op : HostOp} (hs : op ≠ .step) (ht : op ≠ .tick) (hc : op ≠ .clearDirty)
    (s : State) : ∃ key w r halt d,
    op.apply s = { s with key := key, waiting := w, released := r, halt := halt, draws := d } := by
  cases op with
  | step => exact absurd rfl hs
  | tick => exact absurd rfl ht
  | clearDirty => exact absurd rfl hc
  | keyPressed k =>
    obtain h | h | ⟨k', h⟩ := s.keyEvent_cases k (s.setKey · true) <;>
      exact ⟨_, _, _, _, _, h⟩
  | keyReleased k =>
    obtain h | h | ⟨k', h⟩ := s.keyEvent_cases k fun k => (s.setKey k false).capture k
    · exact ⟨_, _, _, _, _, h⟩
    · exact ⟨_, _, _, _, _, h⟩
    · obtain ⟨w, r, d, hcap⟩ := (s.setKey k' false).capture_frame k'
      exact ⟨_, _, _, _, _, h.trans hcap⟩

theorem State.dirty_tick (s : State) : s.tick.dirty = s.dirty := by
  unfold State.tick; split <;> rfl

/-- No host operation but a step and a tick writes the timers (60_exceptions.md R250). -/
theorem HostOp.apply_timers {op : HostOp} (hs : op ≠ .step) (ht : op ≠ .tick) (s : State) :
    (op.apply s).dt = s.dt ∧ (op.apply s).st = s.st := by
  by_cases hc : op = .clearDirty
  · subst hc; exact ⟨rfl, rfl⟩
  · obtain ⟨key, w, r, halt, d, h⟩ := HostOp.apply_keyEvent_frame hs ht hc s
    rw [h]; exact ⟨rfl, rfl⟩

/-- No host operation but a step and clearing it writes DIRTY (R126). -/
theorem HostOp.apply_dirty {op : HostOp} (hs : op ≠ .step) (hc : op ≠ .clearDirty) (s : State) :
    (op.apply s).dirty = s.dirty := by
  by_cases ht : op = .tick
  · subst ht; exact s.dirty_tick
  · obtain ⟨key, w, r, halt, d, h⟩ := HostOp.apply_keyEvent_frame hs ht hc s
    rw [h]

/-! ## Blocks of one length laid end to end -/

section Blocks

variable {α β : Type} {f : α → List β} {m : Nat}

theorem length_flatMap_of_length_eq (hf : ∀ a, (f a).length = m) (l : List α) :
    (l.flatMap f).length = l.length * m := by
  simp [List.length_flatMap, hf]

/-- Position k of block a stands at a * m + k. -/
theorem getElem?_flatMap_of_length_eq (hf : ∀ a, (f a).length = m) {k : Nat} (hk : k < m) {l : List α} {a : Nat}
    (ha : a < l.length) : (l.flatMap f)[a * m + k]? = (f l[a])[k]? := by
  induction l generalizing a with
  | nil => simp at ha
  | cons x l ih =>
    rw [List.flatMap_cons]
    cases a with
    | zero => simp [List.getElem?_append_left, hf, hk]
    | succ a =>
      have hlen : (f x).length ≤ (a + 1) * m + k := by rw [hf, Nat.succ_mul]; omega
      have hsub : (a + 1) * m + k - (f x).length = a * m + k := by rw [hf, Nat.succ_mul]; omega
      rw [List.getElem?_append_right hlen, hsub, ih (by simpa using ha), List.getElem_cons_succ]

end Blocks

/-! ## The color model (R127) -/

section ColorModel

variable (s : State) (fg bg : List Byte)

/-- The bytes of one pixel. -/
def State.pixelColor (p : Pixel) : List Byte := if s.pixel p then fg else bg

/-- The bytes of one row, from left to right. -/
def State.rowColors (r : Fin 32) : List Byte := (List.finRange 64).flatMap fun c => s.pixelColor fg bg (c, r)

theorem State.toColorModel_eq : s.toColorModel fg bg = (List.finRange 32).flatMap (s.rowColors fg bg) := rfl

variable {fg bg}

theorem State.length_pixelColor (h : fg.length = bg.length) (p : Pixel) :
    (s.pixelColor fg bg p).length = fg.length := by
  unfold State.pixelColor; split
  · rfl
  · exact h.symm

theorem State.length_rowColors (h : fg.length = bg.length) (r : Fin 32) :
    (s.rowColors fg bg r).length = 64 * fg.length := by
  rw [State.rowColors, length_flatMap_of_length_eq fun c => s.length_pixelColor h (c, r), List.length_finRange]

theorem State.getElem?_rowColors (h : fg.length = bg.length) (r : Fin 32) (c : Fin 64) {k : Nat} (hk : k < fg.length) :
    (s.rowColors fg bg r)[c.val * fg.length + k]? = (s.pixelColor fg bg (c, r))[k]? := by
  rw [State.rowColors, getElem?_flatMap_of_length_eq (fun c => s.length_pixelColor h (c, r)) hk (by simp),
    List.getElem_finRange]
  rfl

end ColorModel

end Sys2Proof.Machine

namespace Sys2Proof.Proofs

open Sys2Proof.Machine Sys2Proof.Says

/-- Settles O34: CLS writes FB and DIRTY. -/
theorem clsClearsTheScreen : Obligations.ClsClearsTheScreen := fun _ =>
  ⟨_, exec_of_guard rfl, Screen.get_blank, rfl, rfl, rfl, fun _ => rfl, fun _ => rfl, ⟨rfl, fun _ => rfl⟩, ⟨rfl, rfl⟩,
    ⟨fun _ => rfl, rfl, rfl⟩, rfl, rfl, rfl, rfl⟩

/-- Settles O35: the pixels DRAW toggles are those its sprite covers, and it writes FB, DIRTY and VF. -/
theorem drawTogglesTheSpritePixels : Obligations.DrawTogglesTheSpritePixels := by
  intro x y n s hbounds
  have hdirty : (∃ c r, spriteCovers s x y n.val c r) ↔ ∃ p, p ∈ s.spriteOf x y n := by
    simp only [Prod.exists, State.mem_spriteOf_iff]
  refine ⟨_, exec_draw_of_inBounds x y n hbounds, fun c r hcov => ?_, fun c r hcov => ?_, fun hset => ?_, fun hset => ?_,
    fun htouch => ?_, fun htouch => ?_, rfl, rfl, fun j hj => effectOf_reg hj, fun _ => rfl, ⟨rfl, fun _ => rfl⟩,
    ⟨rfl, rfl⟩, ⟨fun _ => rfl, rfl, rfl⟩, rfl, rfl, rfl, rfl⟩
  · simp [pixel_effectOf_draw, State.mem_spriteOf_iff, hcov]
  · simp [pixel_effectOf_draw, State.mem_spriteOf_iff, hcov]
  · rw [reg_vf_effectOf_draw, if_pos ((State.exists_mem_spriteOf_iff x y n _).2 hset)]
  · rw [reg_vf_effectOf_draw, if_neg fun h => hset ((State.exists_mem_spriteOf_iff x y n _).1 h)]
  · exact (dirty_effectOf_draw x y n).2 (.inr (hdirty.1 htouch))
  · rw [Bool.eq_iff_iff, dirty_effectOf_draw, ← hdirty]
    exact or_iff_left htouch

/-- Settles O36: the second draw toggles the same pixels, and finds set the ones that were clear. -/
theorem drawingTwiceRestoresTheScreen : Obligations.DrawingTwiceRestoresTheScreen := by
  intro x y n s t u hbounds hx hy hst htu
  obtain rfl := next_inj ((exec_draw_of_inBounds x y n hbounds).symm.trans hst)
  have hbounds' : (effectOf (.draw x y n) s).i.toNat + n.val ≤ 4096 := hbounds
  obtain rfl := next_inj ((exec_draw_of_inBounds x y n hbounds').symm.trans htu)
  have hsprite := State.spriteOf_effectOf_draw (s := s) n hx hy
  have hcollide : (∃ p ∈ s.spriteOf x y n, (effectOf (.draw x y n) s).pixel p = true) ↔
      ∃ c r, spriteCovers s x y n.val c r ∧ s.pixel (c, r) = false := by
    rw [← State.exists_mem_spriteOf_iff x y n (s.pixel · = false)]
    refine exists_congr fun p => and_congr_right fun hp => ?_
    simp [pixel_effectOf_draw, hp]
  refine ⟨fun p => ?_, ?_, ?_⟩
  · rw [pixel_effectOf_draw, hsprite, pixel_effectOf_draw, Bool.xor_assoc, Bool.xor_self, Bool.xor_false]
  · rw [reg_vf_effectOf_draw]
    split
    · exact .inl rfl
    · exact .inr rfl
  · rw [reg_vf_effectOf_draw, hsprite, ← hcollide]
    simp

/-- Settles O54: no host operation but a step writes the program's state, and those that are no step, tick or clearing of
DIRTY are key events, which write the keypad. -/
theorem hostOnlyClearsDirty : Obligations.HostOnlyClearsDirty := by
  refine ⟨fun _ => ⟨rfl, rfl, rfl, fun _ _ => rfl⟩, fun op s hstep => ?_⟩
  have h := HostOp.apply_sameProgramState hstep s
  exact ⟨h.fb, h.mem, h.v, h.i, h.pc, h.stack, h.sp, fun htick => HostOp.apply_timers hstep htick s,
    fun hclear => HostOp.apply_dirty hstep hclear s⟩

/-- Settles O57: the model is 32 rows of 64 patterns, blocks of one length in blocks of one length. -/
theorem colorModelIsRowMajor : Obligations.ColorModelIsRowMajor := by
  intro s fg bg h
  rw [State.toColorModel_eq]
  refine ⟨?_, fun c r k hk => ?_⟩
  · rw [length_flatMap_of_length_eq (s.length_rowColors h), List.length_finRange]; ring
  · have hpos : (64 * r.val + c.val) * fg.length + k = r.val * (64 * fg.length) + (c.val * fg.length + k) := by ring
    have hrow : c.val * fg.length + k < 64 * fg.length := by
      calc c.val * fg.length + k < (c.val + 1) * fg.length := by rw [Nat.succ_mul]; omega
        _ ≤ 64 * fg.length := Nat.mul_le_mul_right _ c.isLt
    rw [hpos, getElem?_flatMap_of_length_eq (s.length_rowColors h) hrow (by simp), List.getElem_finRange]
    exact s.getElem?_rowColors h r c hk

end Sys2Proof.Proofs
end

section
/-! Control flow (42_control_flow.md): jumps and skips write pc alone, and CALL and RET write pc and the stack. -/

namespace Sys2Proof.Machine

variable (s : State)

/-! ## Jumps and skips (R141, R143 to R147) -/

theorem onlyPc_setPc (w : Word) : onlyPc s (s.setPc w) :=
  ⟨⟨fun _ => rfl, fun _ => rfl,
    ⟨⟨rfl, fun _ => rfl⟩, ⟨rfl, rfl⟩, ⟨fun _ => rfl, rfl⟩, ⟨fun _ => rfl, rfl, rfl⟩⟩, ⟨rfl, rfl, rfl, rfl⟩⟩, rfl⟩

/-- JMPZ's register, the field nnn[11:8] read by arithmetic (R147). -/
theorem State.jumpRegister_eq (nnn : Addr12) :
    s.jumpRegister nnn = if s.quirks.jumping then Fin.ofNat 16 (nnn.toNat / 256) else 0 := by
  have hfield : (nnn.extractLsb' 8 4).toFin = Fin.ofNat 16 (nnn.toNat / 256) :=
    Fin.ext (by simp [Nat.shiftRight_eq_div_pow])
  rw [State.jumpRegister, hfield]

/-- An instruction whose effect is a skip moves pc on exactly when its condition holds (R107). -/
theorem exec_skip {s : State} {i : Instr} {c : Bool} (hg : guardOf i s = none) (he : effectOf i s = s.skipIf c) :
    ∃ t, exec i s = .next t ∧ t.pc = (if c then s.pc + 2 else s.pc) ∧ onlyPc s t := by
  refine ⟨s.setPc (if c then s.pc + 2 else s.pc), ?_, rfl, onlyPc_setPc s _⟩
  rw [exec_of_guard hg, he, State.skipIf_eq]

/-! ## CALL and RET (R140, R142) -/

theorem exec_call_of_free {nnn : Addr12} (h : s.sp ≠ 16) :
    exec (.call nnn) s = .next ((s.push s.fetchedFrom).setPc (addrOperand nnn)) :=
  exec_of_guard ((checkPush_eq_none s).2 h)

theorem exec_ret_of_used (h : s.sp ≠ 0) :
    exec .ret s = .next (s.pop.setPc (s.stackEntry (s.sp.val - 1) + 2)) := by
  rw [← State.top_eq_stackEntry h]
  exact exec_of_guard ((checkPop_eq_none s).2 h)

end Sys2Proof.Machine

namespace Sys2Proof.Proofs

open Sys2Proof.Machine

/-- Settles O37: JMPZ's sum fits in pc, so it is exact, and the register it adds is R147's. -/
theorem jumpsSetPc : Obligations.JumpsSetPc := by
  intro nnn s
  refine ⟨⟨_, exec_of_guard rfl, toNat_addrOperand nnn, onlyPc_setPc s _⟩, ⟨_, exec_of_guard rfl, onlyPc_setPc s _, ?_⟩⟩
  rw [← State.jumpRegister_eq]
  exact toNat_addrOperand_add_byteOperand nnn _

/-- Settles O38: CALL is a push of the address it was fetched from and then a jump. -/
theorem callPushesItsAddress : Obligations.CallPushesItsAddress := by
  intro nnn s h
  have hfree : s.sp ≠ 16 := by omega
  refine ⟨_, exec_call_of_free s hfree, toNat_addrOperand nnn, s.sp_push s.fetchedFrom hfree, ?_, fun j hj => ?_,
    fun _ => rfl, rfl, fun _ => rfl, ⟨rfl, rfl⟩, ⟨fun _ => rfl, rfl⟩, ⟨fun _ => rfl, rfl, rfl⟩, rfl, rfl, rfl, rfl⟩
  · exact (s.stackEntry_push _ _ hfree).trans (if_pos rfl)
  · exact (s.stackEntry_push _ j hfree).trans (if_neg hj)

/-- Settles O39: RET is a pop and then a jump past the CALL whose address it popped. -/
theorem retReturnsPastTheCall : Obligations.RetReturnsPastTheCall := by
  intro s h
  have hused : s.sp ≠ 0 := by omega
  exact ⟨_, exec_ret_of_used s hused, s.sp_pop hused, rfl, fun _ => rfl, fun _ => rfl, rfl, fun _ => rfl, ⟨rfl, rfl⟩,
    ⟨fun _ => rfl, rfl⟩, ⟨fun _ => rfl, rfl, rfl⟩, rfl, rfl, rfl, rfl⟩

/-- Settles O40: RET (O39) pops the entry CALL (O38) pushed, `s.pc - 2`, and no entry below it was written. -/
theorem retAfterCallResumesAfterIt : Obligations.RetAfterCallResumesAfterIt := by
  intro nnn s t pc h hcall
  obtain ⟨t', hcall', -, hsp, hentry, hbelow, -⟩ := callPushesItsAddress nnn s h
  obtain rfl := next_inj (hcall'.symm.trans hcall)
  have hused : 0 < (t.setPc pc).sp.val := by rw [State.setPc_sp, hsp]; exact Nat.succ_pos _
  obtain ⟨u, hret, husp, hupc, hustack, -⟩ := retReturnsPastTheCall (t.setPc pc) hused
  rw [State.setPc_sp, hsp, Nat.add_sub_cancel] at husp hupc
  refine ⟨u, hret, ?_, Fin.ext husp, fun j hj => ?_⟩
  · rw [hupc, State.setPc_stackEntry, hentry, BitVec.sub_add_cancel]
  · rw [hustack, State.setPc_stackEntry, hbelow j hj.ne]

/-- Settles O41: each of the four is a skip on its comparison, two of them on its negation. -/
theorem skipsFollowTheirComparison : Obligations.SkipsFollowTheirComparison := by
  intro x y nn s
  refine ⟨?skeb, ?skneb, ?ske, ?skne⟩
  case skeb => simpa using exec_skip (i := .skeb x nn) rfl rfl
  case skneb => simpa using exec_skip (i := .skneb x nn) rfl rfl
  case ske => simpa using exec_skip (i := .ske x y) rfl rfl
  case skne => simpa using exec_skip (i := .skne x y) rfl rfl

end Sys2Proof.Proofs
end

section
/-! The register and timer loads, arithmetic, bitwise operations, shifts and RND (43_alu.md, 45_timers_keypad.md R220 to
R222): one rule for each way these instructions write the registers, and the flags and results as numbers. -/

namespace Sys2Proof.Machine

variable {s t : State} {i : Instr} {x y : Reg} {r f b : Byte}

/-! ## What the register writes leave alone (R21, R22) -/

/-- A larger set of registers may be written too. -/
theorem onlyRegs.mono {w w' : Reg → Prop} (h : onlyRegs s t w) (hw : ∀ j, w j → w' j) : onlyRegs s t w' :=
  ⟨fun j hj => h.1 j (mt (hw j) hj), h.2⟩

/-- A state that differs in V alone differs in the registers whose value changed. -/
theorem onlyRegs_with_v {w : Reg → Prop} {v : Vector Byte 16} (h : sameRegs s { s with v := v } w) :
    onlyRegs s { s with v := v } w :=
  ⟨h, rfl, fun _ => rfl, ⟨⟨rfl, fun _ => rfl⟩, ⟨rfl, rfl⟩, ⟨fun _ => rfl, rfl⟩, ⟨fun _ => rfl, rfl, rfl⟩⟩,
    ⟨rfl, rfl, rfl, rfl⟩⟩

theorem onlyRegs_setReg : onlyRegs s (s.setReg x b) (· = x) :=
  onlyRegs_with_v fun _ hj => s.reg_setReg_ne hj b

theorem onlyRegs_setResultFlag : onlyRegs s (s.setResultFlag x r f) fun j => j = x ∨ j = 15 :=
  onlyRegs_with_v fun j hj => by
    obtain ⟨hx, hvf⟩ := not_or.1 hj
    exact (s.reg_setResultFlag x j r f).trans ((if_neg hvf).trans (if_neg hx))

theorem onlyRegs_setBitwise :
    onlyRegs s (s.setBitwise x r) fun j => j = x ∨ (s.quirks.vfReset = true ∧ j = 15) := by
  unfold State.setBitwise
  split
  · rename_i hq
    exact onlyRegs_setResultFlag.mono fun _ => Or.imp_right fun hj => ⟨hq, hj⟩
  · exact onlyRegs_setReg.mono fun _ => .inl

theorem onlyRegs_setShift : onlyRegs s (s.setShift x r f b) fun j => j = x ∨ j = 15 := by
  unfold State.setShift
  split
  · exact onlyRegs_setReg.mono fun _ => .inr
  · exact onlyRegs_setResultFlag

/-! ## What an instruction answers, by its write -/

theorem exec_of_effect (hg : guardOf i s = none) (he : effectOf i s = t) : exec i s = .next t :=
  he ▸ exec_of_guard hg

/-- LDB, ADDB, LD and LDFT: one register. -/
theorem exec_setReg (hg : guardOf i s = none) (he : effectOf i s = s.setReg x b) :
    ∃ t, exec i s = .next t ∧ t.reg x = b ∧ t.pc = s.pc ∧ onlyRegs s t (· = x) :=
  ⟨_, exec_of_effect hg he, s.reg_setReg_same x b, rfl, onlyRegs_setReg⟩

/-- ADD, SUB and SUBR: the result and then the flag, which stays (R183). -/
theorem exec_setResultFlag (hg : guardOf i s = none) (he : effectOf i s = s.setResultFlag x r f) :
    ∃ t, exec i s = .next t ∧ (x ≠ 15 → t.reg x = r) ∧ t.reg 15 = f ∧ t.pc = s.pc ∧
      onlyRegs s t fun j => j = x ∨ j = 15 := by
  refine ⟨_, exec_of_effect hg he, fun hx => ?_, ?_, rfl, onlyRegs_setResultFlag⟩
  · rw [s.reg_setResultFlag, if_neg hx, if_pos rfl]
  · rw [s.reg_setResultFlag, if_pos rfl]

/-- With x = 15 the only register written is VF, and it holds the flag. -/
theorem exec_setResultFlag_vf (hg : guardOf i s = none) (he : effectOf i s = s.setResultFlag 15 r f) :
    ∃ t, exec i s = .next t ∧ t.reg 15 = f ∧ t.pc = s.pc ∧ onlyRegs s t (· = 15) := by
  obtain ⟨t, ht, -, hvf, hpc, honly⟩ := exec_setResultFlag hg he
  exact ⟨t, ht, hvf, hpc, honly.mono fun _ => or_self_iff.1⟩

/-- OR, AND and XOR: the result, and then 0 in VF where `vf_reset` asks for it (R174 to R176). -/
theorem exec_setBitwise (hg : guardOf i s = none) (he : effectOf i s = s.setBitwise x r) :
    ∃ t, exec i s = .next t ∧ t.pc = s.pc ∧ (s.quirks.vfReset = false ∨ x ≠ 15 → t.reg x = r) ∧
      (s.quirks.vfReset = true → t.reg 15 = 0) ∧
      onlyRegs s t fun j => j = x ∨ (s.quirks.vfReset = true ∧ j = 15) := by
  refine ⟨_, exec_of_effect hg he, s.setBitwise_pc x r, fun hx => ?_, fun hq => ?_, onlyRegs_setBitwise⟩
  · have hkept : ¬(s.quirks.vfReset = true ∧ x = 15) := by
      rintro ⟨hq, rfl⟩
      simp [hq] at hx
    rw [s.reg_setBitwise, if_neg hkept, if_pos rfl]
  · rw [s.reg_setBitwise, if_pos ⟨hq, rfl⟩]

/-- SHR and SHL: the result and the flag, or for x = 15 the one byte SHIFT_VF selects (R180, R181). -/
theorem exec_setShift (hg : guardOf i s = none) (he : effectOf i s = s.setShift x r f b) :
    ∃ t, exec i s = .next t ∧ t.pc = s.pc ∧ (onlyRegs s t fun j => j = x ∨ j = 15) ∧
      (x ≠ 15 → t.reg x = r ∧ t.reg 15 = f) ∧ (x = 15 → t.reg 15 = b) := by
  refine ⟨_, exec_of_effect hg he, s.setShift_pc x r f b, onlyRegs_setShift, fun hx => ⟨?_, ?_⟩, fun hx => ?_⟩
  · rw [s.reg_setShift, if_neg hx, if_pos rfl]
  · rw [s.reg_setShift, if_pos rfl, if_neg hx]
  · rw [s.reg_setShift, if_pos rfl, if_pos hx]

/-! ## Flags, differences and shifts as numbers (R170, R177 to R181) -/

section Numbers

variable (p q : Byte)

theorem carryFlag_eq : carryFlag p q = if p.toNat + q.toNat > 0xFF then 1 else 0 := by
  simp only [carryFlag, flagByte, decide_eq_true_eq]

theorem noBorrowFlag_eq : noBorrowFlag p q = if p.toNat ≥ q.toNat then 1 else 0 := by
  simp only [noBorrowFlag, flagByte, decide_eq_true_eq]

/-- A difference of bytes is the exact difference modulo 2^8. -/
theorem toNat_sub_eq_emod : ((p - q).toNat : Int) = ((p.toNat : Int) - q.toNat) % 256 := by
  have hp := p.isLt
  have hq := q.isLt
  rw [BitVec.toNat_sub]
  omega

theorem toNat_ushiftRight_one : (p >>> 1).toNat = p.toNat / 2 := by
  rw [BitVec.toNat_ushiftRight, Nat.shiftRight_eq_div_pow, pow_one]

theorem toNat_shiftLeft_one : (p <<< 1).toNat = p.toNat * 2 % 256 := by
  rw [BitVec.toNat_shiftLeft, Nat.shiftLeft_eq, pow_one]

/-- SHR's flag is bit 0. -/
theorem toNat_shrFlag : (shrFlag p).toNat = p.toNat % 2 := by
  rw [shrFlag, BitVec.toNat_and]
  exact Nat.and_one_is_mod _

/-- SHL's flag is bit 7. -/
theorem toNat_shlFlag : (shlFlag p).toNat = p.toNat / 128 := by
  have hp := p.isLt
  have hbit : (shlFlag p).toNat = (p >>> 7).toNat % 2 := toNat_shrFlag (p >>> 7)
  rw [hbit, BitVec.toNat_ushiftRight, Nat.shiftRight_eq_div_pow]
  omega

/-- SHR's flag, shifted right in its turn, is gone. -/
theorem toNat_shrFlag_shifted : (shrFlag p >>> 1).toNat = 0 := by
  rw [toNat_ushiftRight_one, toNat_shrFlag]
  omega

/-- SHL's flag, shifted left in its turn, is bit 1. -/
theorem toNat_shlFlag_shifted : (shlFlag p <<< 1).toNat = p.toNat / 128 * 2 := by
  have hp := p.isLt
  rw [toNat_shiftLeft_one, toNat_shlFlag]
  omega

end Numbers

/-- The operand of a shift, by the quirk `shifting`. -/
theorem State.toNat_shiftOperand : (s.shiftOperand x y).toNat = Says.shiftInput s x y :=
  apply_ite BitVec.toNat _ _ _

end Sys2Proof.Machine

namespace Sys2Proof.Proofs

open Sys2Proof.Machine

/-- Settles O32: the write of a shift, its three bytes read as numbers in each reading of SHIFT_VF. -/
theorem shiftsByOne : Obligations.ShiftsByOne := by
  intro x y s v
  have hv : (s.shiftOperand x y).toNat = v := State.toNat_shiftOperand
  constructor
  · obtain ⟨t, ht, hpc, honly, hother, hvf⟩ := exec_setShift (i := .shr x y) (s := s) rfl rfl
    refine ⟨t, ht, hpc, honly, fun hx => ?_, fun hx => ?_⟩
    · rw [(hother hx).1, (hother hx).2, toNat_ushiftRight_one, toNat_shrFlag, hv]
      exact ⟨rfl, rfl⟩
    · rw [hvf hx, ← hv]
      cases s.shiftVF with
      | flagLast => exact toNat_shrFlag _
      | resultLast => exact toNat_ushiftRight_one _
      | inPlace => exact toNat_shrFlag_shifted _
  · obtain ⟨t, ht, hpc, honly, hother, hvf⟩ := exec_setShift (i := .shl x y) (s := s) rfl rfl
    refine ⟨t, ht, hpc, honly, fun hx => ?_, fun hx => ?_⟩
    · rw [(hother hx).1, (hother hx).2, toNat_shiftLeft_one, toNat_shlFlag, hv]
      exact ⟨rfl, rfl⟩
    · rw [hvf hx, ← hv]
      cases s.shiftVF with
      | flagLast => exact toNat_shlFlag _
      | resultLast => exact toNat_shiftLeft_one _
      | inPlace => exact toNat_shlFlag_shifted _

/-- Settles O28: three are writes of one register, two of one timer. -/
theorem loadsCopyAndChangeNothingElse : Obligations.LoadsCopyAndChangeNothingElse := by
  intro x y nn s
  refine ⟨exec_setReg rfl rfl, exec_setReg rfl rfl, exec_setReg rfl rfl, ⟨_, exec_of_guard rfl, ?lddt⟩,
    ⟨_, exec_of_guard rfl, ?ldst⟩⟩
  all_goals
    exact ⟨rfl, rfl, rfl, rfl, fun _ => rfl, fun _ => rfl, ⟨rfl, fun _ => rfl⟩, ⟨fun _ => rfl, rfl⟩,
      ⟨fun _ => rfl, rfl, rfl⟩, rfl, rfl, rfl, rfl⟩

/-- Settles O29: the sums and differences of bytes as numbers, and their flags. -/
theorem arithmeticIsUnsignedModulo256 : Obligations.ArithmeticIsUnsignedModulo256 := by
  intro x y nn s p q
  refine ⟨?addb, fun hx => ⟨?add, ?sub, ?subr⟩⟩
  case addb =>
    obtain ⟨t, ht, hres, hframe⟩ := exec_setReg (i := .addb x nn) (s := s) rfl rfl
    exact ⟨t, ht, hres ▸ BitVec.toNat_add _ _, hframe⟩
  case add =>
    obtain ⟨t, ht, hres, hvf, hframe⟩ := exec_setResultFlag (i := .add x y) (s := s) rfl rfl
    exact ⟨t, ht, hres hx ▸ BitVec.toNat_add _ _, hvf.trans (carryFlag_eq _ _), hframe⟩
  case sub =>
    obtain ⟨t, ht, hres, hvf, hframe⟩ := exec_setResultFlag (i := .sub x y) (s := s) rfl rfl
    exact ⟨t, ht, hres hx ▸ toNat_sub_eq_emod _ _, hvf.trans (noBorrowFlag_eq _ _), hframe⟩
  case subr =>
    obtain ⟨t, ht, hres, hvf, hframe⟩ := exec_setResultFlag (i := .subr x y) (s := s) rfl rfl
    exact ⟨t, ht, hres hx ▸ toNat_sub_eq_emod _ _, hvf.trans (noBorrowFlag_eq _ _), hframe⟩

/-- Settles O30: the flag is the last write, and was computed before the first. -/
theorem flagStaysInVF : Obligations.FlagStaysInVF := by
  intro y s
  exact ⟨exec_setResultFlag_vf rfl (congrArg (s.setResultFlag 15 _) (carryFlag_eq _ _)),
    exec_setResultFlag_vf rfl (congrArg (s.setResultFlag 15 _) (noBorrowFlag_eq _ _)),
    exec_setResultFlag_vf rfl (congrArg (s.setResultFlag 15 _) (noBorrowFlag_eq _ _))⟩

/-- Settles O31: the three differ in the result they write, and each result is `f` at every bit. -/
theorem bitwiseOperationsAndVfReset : Obligations.BitwiseOperationsAndVfReset := by
  intro x y s i f hi
  obtain ⟨r, hr, hg, he⟩ : ∃ r, (∀ b, r.getLsbD b = f ((s.reg x).getLsbD b) ((s.reg y).getLsbD b)) ∧
      guardOf i s = none ∧ effectOf i s = s.setBitwise x r := by
    obtain ⟨rfl, rfl⟩ | ⟨rfl, rfl⟩ | ⟨rfl, rfl⟩ := hi
    · exact ⟨_, fun _ => BitVec.getLsbD_or, rfl, rfl⟩
    · exact ⟨_, fun _ => BitVec.getLsbD_and, rfl, rfl⟩
    · exact ⟨_, fun _ => BitVec.getLsbD_xor, rfl, rfl⟩
  obtain ⟨t, ht, hpc, hres, hvf, honly⟩ := exec_setBitwise hg he
  exact ⟨t, ht, hpc, fun hx b _ => hres hx ▸ hr b, hvf, honly⟩

/-- Settles O33: RND is a register write and a draw taken; a bit that nn masks is 0 in any conjunction with it. -/
theorem randomByteIsMasked : Obligations.RandomByteIsMasked := by
  intro x nn s
  have hx : (s.setRandom x nn (Config.freeByte s.draws)).reg x = Config.freeByte s.draws &&& nn :=
    s.reg_setReg_same x _
  obtain ⟨hregs, hi, hmem, hdevices, hhalt, hquirks, hshift, -⟩ :=
    onlyRegs_setReg (s := s) (x := x) (b := Config.freeByte s.draws &&& nn)
  refine ⟨_, exec_of_guard rfl, hx, fun b hb => ?_, fun hnn => ?_, rfl, rfl, hi, hregs, hmem, hdevices, hhalt, hquirks,
    hshift⟩
  · rw [effectOf, hx, BitVec.getLsbD_and, hb, Bool.and_false]
  · subst hnn
    exact hx.trans BitVec.and_zero

end Sys2Proof.Proofs
end

section
/-! The index register and memory (44_index_memory.md): runs of stores and loads, the index advance, and the instructions
that use them. -/

namespace Sys2Proof.Machine

variable (s : State) {x : Reg}

/-! ## Writes of I (R201 to R203, R207) -/

theorem onlyIndex_setI (w : Word) : onlyIndex s (s.setI w) :=
  ⟨fun _ => rfl, fun _ => rfl, ⟨⟨rfl, fun _ => rfl⟩, ⟨rfl, rfl⟩, ⟨fun _ => rfl, rfl⟩, ⟨fun _ => rfl, rfl, rfl⟩⟩,
    ⟨rfl, rfl, rfl, rfl⟩⟩

/-- An instruction that passes its check and then sets I. -/
theorem exec_setI {s : State} {i : Instr} {w : Word} {n : Nat} (hg : guardOf i s = none) (he : effectOf i s = s.setI w)
    (hw : w.toNat = n) : ∃ t, exec i s = .next t ∧ t.i.toNat = n ∧ t.pc = s.pc ∧ onlyIndex s t :=
  ⟨_, exec_of_effect hg he, hw, rfl, onlyIndex_setI s w⟩

/-- The index advance writes I at most (R207). -/
theorem onlyIndex_advanceIndex (x : Reg) : onlyIndex s (s.advanceIndex x) := by
  unfold State.advanceIndex
  split
  · exact onlyIndex_setI s _
  · exact onlyIndex_setI s s.i

/-- After a run that lies inside memory the advance is exact: I stays within 16 bits. -/
theorem State.toNat_advanceIndex_i (h : s.i.toNat + (x.val + 1) ≤ 4096) :
    (s.advanceIndex x).i.toNat = s.i.toNat + (if s.quirks.memory then x.val + 1 else 0) := by
  rw [State.advanceIndex_i]
  split
  · have hlen : (BitVec.ofNat 16 (x.val + 1)).toNat = x.val + 1 := Nat.mod_eq_of_lt (by omega)
    rw [BitVec.toNat_add_of_lt (by omega), hlen]
  · rfl

/-! ## Runs of stores and loads (R200, R204 to R206) -/

theorem sameMemory_storeBytes (base : Nat) (l : List Byte) :
    sameMemory s (s.storeBytes base l) (fun a => base ≤ a ∧ a < base + l.length) :=
  fun _ ha => s.readByte_storeBytes_outside (by omega)

/-- A byte of a run of stores. -/
theorem State.readByte_storeBytes_inside (base : Nat) (l : List Byte) {j : Nat} (h : j < l.length) :
    (s.storeBytes base l).readByte (base + j) = l[j] :=
  Memory.read_writeRun_inside s.mem base l h

/-- LREG's loop writes V0 to V[x] alone. -/
theorem onlyRegs_loadRun (x : Reg) : onlyRegs s (s.loadRun x) (· ≤ x) :=
  onlyRegs_with_v fun j hj => (s.reg_loadRun x j).trans (if_neg hj)

/-- SREG's run holds the registers up to V[x]. -/
theorem State.readByte_storeBytes_regsUpTo {j : Reg} (h : j ≤ x) :
    (s.storeBytes s.i.toNat (s.regsUpTo x)).readByte (s.i.toNat + j.val) = s.reg j := by
  have hj : j.val < (s.regsUpTo x).length := by rw [s.length_regsUpTo]; exact Nat.lt_succ_of_le h
  rw [s.readByte_storeBytes_inside _ _ hj, s.getElem_regsUpTo]

/-- The three digits of a byte, hundreds first, as numbers (R204). -/
theorem map_toNat_decimalDigits (b : Byte) :
    (decimalDigits b).map BitVec.toNat = [b.toNat / 100, b.toNat / 10 % 10, b.toNat % 10] := by
  have hb := b.isLt
  simp only [decimalDigits, List.map, BitVec.toNat_ofNat, List.cons.injEq, and_true]
  omega

/-- BCD's run holds those digits. -/
theorem State.toNat_readByte_storeBytes_decimalDigits (base : Nat) (b : Byte) {k : Nat} (hk : k < 3) :
    ((s.storeBytes base (decimalDigits b)).readByte (base + k)).toNat =
      [b.toNat / 100, b.toNat / 10 % 10, b.toNat % 10][k] := by
  rw [s.readByte_storeBytes_inside _ _ hk]
  simp only [← map_toNat_decimalDigits]
  exact (List.getElem_map BitVec.toNat).symm

/-- In bounds and past the font area, SREG answers its effect. -/
theorem exec_sreg_of_inBounds (h : s.i.toNat + (x.val + 1) ≤ 4096) (hfont : 0x050 ≤ s.i.toNat) :
    exec (.sreg x) s = .next ((s.storeBytes s.i.toNat (s.regsUpTo x)).advanceIndex x) :=
  exec_of_guard ((checkWrite_eq_none _ _).2 ⟨h, hfont⟩)

/-- In bounds, LREG answers its effect. -/
theorem exec_lreg_of_inBounds (h : s.i.toNat + (x.val + 1) ≤ 4096) :
    exec (.lreg x) s = .next ((s.loadRun x).advanceIndex x) :=
  exec_of_guard ((checkRead_eq_none _ _).2 h)

end Sys2Proof.Machine

namespace Sys2Proof.Proofs

open Sys2Proof.Machine

/-- Settles O48: the three bytes stored are the digits of V[x], and a run of stores writes memory alone. -/
theorem bcdStoresTheDecimalDigits : Obligations.BcdStoresTheDecimalDigits := by
  intro x s h hfont
  refine ⟨_, exec_of_guard ((checkWrite_eq_none _ _).2 ⟨h, hfont⟩), ?_, sameMemory_storeBytes s _ _, fun _ => rfl, rfl,
    rfl, ⟨⟨rfl, fun _ => rfl⟩, ⟨rfl, rfl⟩, ⟨fun _ => rfl, rfl⟩, ⟨fun _ => rfl, rfl, rfl⟩⟩, ⟨rfl, rfl, rfl, rfl⟩⟩
  have hx := (s.reg x).isLt
  have hdigits := fun k => s.toNat_readByte_storeBytes_decimalDigits s.i.toNat (s.reg x) (k := k)
  simp only [effectOf, hdigits 0 (by decide), hdigits 1 (by decide), hdigits 2 (by decide), List.getElem_cons_zero,
    List.getElem_cons_succ]
  omega

/-- Settles O49: a run of stores, and then the index advance, which leaves memory and registers alone. -/
theorem sregStoresTheRegisters : Obligations.SregStoresTheRegisters := by
  intro x s h hfont
  have hstored := sameMemory_storeBytes s s.i.toNat (s.regsUpTo x)
  rw [s.length_regsUpTo] at hstored
  obtain ⟨hregs, hmem, hdevices, hcontrol⟩ := onlyIndex_advanceIndex (s.storeBytes s.i.toNat (s.regsUpTo x)) x
  exact ⟨_, exec_sreg_of_inBounds s h hfont, fun j hj => (hmem _).trans (s.readByte_storeBytes_regsUpTo hj),
    fun a ha => (hmem a).trans (hstored a ha), State.toNat_advanceIndex_i (s.storeBytes _ _) h, hregs,
    State.advanceIndex_pc _ x, hdevices, hcontrol⟩

/-- Settles O50: LREG's loop, and then the index advance, which leaves memory and registers alone. -/
theorem lregLoadsTheRegisters : Obligations.LregLoadsTheRegisters := by
  intro x s h
  obtain ⟨hregs, hmem, hdevices, hcontrol⟩ := onlyIndex_advanceIndex (s.loadRun x) x
  obtain ⟨habove, -⟩ := onlyRegs_loadRun s x
  exact ⟨_, exec_lreg_of_inBounds s h, fun j hj => (hregs j).trans ((s.reg_loadRun x j).trans (if_pos hj)),
    fun j hj => (hregs j).trans (habove j hj), State.toNat_advanceIndex_i (s.loadRun x) h, hmem,
    State.advanceIndex_pc _ x, hdevices, hcontrol⟩

/-- Settles O51: LREG (O50) loads the bytes at I, and they are those SREG (O49) stored there. -/
theorem lregLoadsWhatSregStored : Obligations.LregLoadsWhatSregStored := by
  intro x s t u h hfont hsreg hmem hi
  obtain ⟨t', ht', hstored, -⟩ := sregStoresTheRegisters x s h hfont
  obtain rfl := next_inj (ht'.symm.trans hsreg)
  obtain ⟨w, hw, hloaded, -⟩ := lregLoadsTheRegisters x u (hi ▸ h)
  refine ⟨w, hw, fun j hj => ?_⟩
  calc w.reg j = u.readByte (u.i.toNat + j.val) := hloaded j hj
    _ = t.readByte (s.i.toNat + j.val) := by rw [State.readByte, State.readByte, hmem, hi]
    _ = s.reg j := hstored j hj

/-- Settles O47: the three sums fit in I's 16 bits, ADDI's by its check and FONT's because a digit is at most 15. -/
theorem indexInstructionsSetI : Obligations.IndexInstructionsSetI := by
  intro x nnn s
  refine ⟨?ldi, fun hsum => ?addi, fun hdigit => ?font⟩
  case ldi => exact exec_setI rfl rfl (toNat_addrOperand nnn)
  case addi =>
    have hfits : s.i.toNat + (byteOperand (s.reg x)).toNat < 2 ^ 16 := by rw [toNat_byteOperand]; omega
    refine exec_setI ((checkIndex_eq_none _ _).2 hsum) rfl ?_
    rw [BitVec.toNat_add_of_lt hfits, toNat_byteOperand]
  case font => exact exec_setI ((checkDigit_eq_none _).2 hdigit) rfl (Nat.mod_eq_of_lt (by omega))

end Sys2Proof.Proofs
end

section
/-! The keypad (45_timers_keypad.md R223 to R228): what the host's key events do to the keys and to an armed
LDK, and that no instruction writes a key. -/

namespace Sys2Proof.Machine

variable (s : State) {t : State}

/-! ## The keys (R226; 60_exceptions.md R252, R253) -/

theorem State.keyDown_congr (h : t.key = s.key) (j : Nat) : t.keyDown j = s.keyDown j :=
  congrArg (·[j]?.getD false) h

/-- A key after a write of one key. -/
theorem State.keyDown_setKey (k : Key) (b : Bool) (j : Nat) :
    (s.setKey k b).keyDown j = if j = k.val then b else s.keyDown j := by
  simp only [State.keyDown, State.setKey, Vector.getElem?_set, eq_comm (a := j)]
  split <;> rfl

theorem State.keyDown_setKey_ne {k : Key} {j : Nat} (h : j ≠ k.val) (b : Bool) :
    (s.setKey k b).keyDown j = s.keyDown j := by
  rw [s.keyDown_setKey, if_neg h]

theorem State.keyDown_capture (k : Key) (j : Nat) : (s.capture k).keyDown j = s.keyDown j := by
  obtain ⟨w, r, d, h⟩ := s.capture_frame k
  rw [h]; rfl

/-- A key event whose writes leave key `j` leaves it, and so does one that writes nothing or faults. -/
theorem State.keyDown_keyEvent {n j : Nat} {f : Key → State}
    (hf : ∀ k : Key, k.val = n → (f k).keyDown j = s.keyDown j) : (s.keyEvent n f).keyDown j = s.keyDown j := by
  unfold State.keyEvent
  split
  · rfl
  · split
    · exact hf _ rfl
    · rfl

theorem State.key_tick : s.tick.key = s.key := by
  unfold State.tick; split <;> rfl

theorem exec_key {s : State} {i : Instr} (h : exec i s = .next t) : t.key = s.key :=
  exec_field (·.key) h (fun _ => rfl) (effectOf_key i s)

theorem step_key {s : State} (h : step s = .next t) : t.key = s.key := by
  obtain ⟨-, ⟨-, rfl⟩ | ⟨-, k, -, rfl⟩ | ⟨-, -, rfl⟩⟩ := step_cases h
  · rfl
  · rfl
  · exact effectOf_key _ _

theorem State.key_stepped : s.stepped.key = s.key := by
  obtain h | h := s.stepped_cases
  · rw [h]
  · exact step_key h

/-- A host operation that is no event of key `j` leaves it as it is. -/
theorem HostOp.apply_keyDown {op : HostOp} {j : Nat} (hp : op ≠ .keyPressed j) (hr : op ≠ .keyReleased j) :
    (op.apply s).keyDown j = s.keyDown j := by
  cases op with
  | step => exact s.keyDown_congr s.key_stepped j
  | tick => exact s.keyDown_congr s.key_tick j
  | clearDirty => rfl
  | keyPressed n =>
    have hne : j ≠ n := fun h => hp (h ▸ rfl)
    exact s.keyDown_keyEvent fun k hk => s.keyDown_setKey_ne (hk ▸ hne) true
  | keyReleased n =>
    have hne : j ≠ n := fun h => hr (h ▸ rfl)
    exact s.keyDown_keyEvent fun k hk => (State.keyDown_capture _ k j).trans (s.keyDown_setKey_ne (hk ▸ hne) false)

/-! ## A release while LDK is armed (R227; 60_exceptions.md R253) -/

section Release

variable {s}

theorem State.keyEvent_of_running (h : s.halt = none) {n : Nat} (hn : n < 16) (f : Key → State) :
    s.keyEvent n f = f ⟨n, hn⟩ := by
  simp only [State.keyEvent, h, dif_pos hn]

theorem State.capture_of_armed (hw : s.waiting = true) (hr : s.released = none) (k : Key) :
    s.capture k = s.setWait true (some k) := by
  simp only [State.capture, hw, hr, if_true]

/-- The first release since LDK was armed: the key is up, and LDK holds it. -/
theorem State.keyReleased_of_armed (h : s.halt = none) (hw : s.waiting = true) (hr : s.released = none) {n : Nat}
    (hn : n < 16) : s.keyReleased n = (s.setKey ⟨n, hn⟩ false).setWait true (some ⟨n, hn⟩) := by
  rw [State.keyReleased, State.keyEvent_of_running h hn]
  exact State.capture_of_armed (s := s.setKey ⟨n, hn⟩ false) hw hr _

end Release

/-! ## LDK (R225, R227) -/

/-- What LDK leaves alone, whether it arms, waits or takes a key. -/
theorem effectOf_ldk_keeps (x : Reg) : (effectOf (.ldk x) s).i = s.i ∧ sameAllMemory s (effectOf (.ldk x) s) ∧
    sameStack s (effectOf (.ldk x) s) ∧ sameTimers s (effectOf (.ldk x) s) ∧ sameDisplay s (effectOf (.ldk x) s) ∧
    sameControl s (effectOf (.ldk x) s) ∧ ∀ k, (effectOf (.ldk x) s).keyDown k = s.keyDown k := by
  obtain ⟨b, pc, w, r, h⟩ := effectOf_ldk_frame x s
  rw [h]
  exact ⟨rfl, fun _ => rfl, ⟨rfl, fun _ => rfl⟩, ⟨rfl, rfl⟩, ⟨fun _ => rfl, rfl⟩, ⟨rfl, rfl, rfl, rfl⟩, fun _ => rfl⟩

/-- The register LDK captures into holds the key's number. -/
theorem State.toNat_reg_captureKey (x : Reg) (k : Key) : ((s.captureKey x k).reg x).toNat = k.val := by
  rw [State.captureKey, State.setWait_reg, State.reg_setReg_same, BitVec.toNat_ofNat]
  omega

/-- The step of an LDK that holds a released key takes it. -/
theorem step_of_released_ldk {s : State} {x : Reg} {k : Key} (h : s.halt = none) (hf : s.canFetch = true)
    (hldk : s.fetchInstr = .ldk x) (hw : s.waiting = true) (hr : s.released = some k) :
    step s = .next (s.advancePc.captureKey x k) := by
  rw [step_of_canFetch h hf, hldk, exec_of_guard rfl]
  exact congrArg _ (effectOf_ldk_released x hw hr)

end Sys2Proof.Machine

namespace Sys2Proof.Proofs

open Sys2Proof.Machine

/-- Settles O15: no instruction writes KEY, and a host operation that writes key k is an event of key k. -/
theorem onlyTheHostWritesKeys : Obligations.OnlyTheHostWritesKeys := by
  refine ⟨fun x s i _ => ?_, fun op s k hchanged => ?_⟩
  · obtain ⟨t, ht⟩ := exists_exec i s
    exact ⟨t, ht, s.keyDown_congr (exec_key ht)⟩
  · by_contra hother
    obtain ⟨hp, hr⟩ := not_or.1 hother
    exact hchanged (HostOp.apply_keyDown s hp hr)

/-- Settles O43: both are skips on the key V[x] names, SKNP on its negation, and with V[x] at most 15 neither faults. -/
theorem keySkipsFollowTheKey : Obligations.KeySkipsFollowTheKey := by
  intro x s h
  have hkey : checkKey (s.reg x) = none := (checkKey_eq_none _).2 h
  obtain ⟨t, ht, htpc, htonly⟩ := exec_skip (i := .skp x) hkey rfl
  obtain ⟨u, hu, hupc, huonly⟩ := exec_skip (i := .sknp x) hkey rfl
  refine ⟨⟨t, ht, htonly, htpc⟩, u, hu, huonly, hupc.trans ?_⟩
  cases s.keyDown (s.reg x).toNat <;> rfl

/-- Settles O44: the three cases of LDK's effect, over the frame they share. -/
theorem ldkArmsWaitsAndCaptures : Obligations.LdkArmsWaitsAndCaptures := by
  intro x s
  obtain ⟨hi, hmem, hstack, htimers, hdisplay, hcontrol, hkeys⟩ := effectOf_ldk_keeps s x
  refine ⟨_, exec_of_guard rfl, hi, hmem, hstack, htimers, hdisplay, hcontrol, hkeys, fun hidle => ?idle,
    fun hw hr => ?armed, fun k hw hr => ?released⟩
  case idle =>
    rw [effectOf_ldk_idle x hidle]
    exact ⟨rfl, rfl, rfl, fun _ _ => rfl⟩
  case armed =>
    rw [effectOf_ldk_armed x hw hr]
    exact ⟨hw, hr, rfl, fun _ _ => rfl⟩
  case released =>
    rw [effectOf_ldk_released x hw hr]
    exact ⟨rfl, rfl, rfl, s.toNat_reg_captureKey x k, fun _ hj => s.reg_setReg_ne hj _⟩

/-- Settles O46: the release writes neither pc nor memory, so the next step fetches the same LDK, now holding the
key. -/
theorem releaseCompletesAnArmedLdk : Obligations.ReleaseCompletesAnArmedLdk := by
  intro s x k hrun hfetch hldk hw hnone hk
  have hup : (s.setKey ⟨k, hk⟩ false).keyDown k = false := (s.keyDown_setKey _ _ k).trans (if_pos rfl)
  rw [State.keyReleased_of_armed hrun hw hnone hk]
  exact ⟨_, step_of_released_ldk hrun hfetch hldk rfl rfl, State.toNat_reg_captureKey _ x ⟨k, hk⟩, rfl, rfl, rfl, hup,
    fun _ hj => State.reg_setReg_ne _ hj _⟩

end Sys2Proof.Proofs
end

section
/-! Fatal conditions and the host's ports (60_exceptions.md): the fault table and the state after a fault, the tick and
the key events. -/

namespace Sys2Proof.Machine

open Sys2Proof.Says

/-! ## The fault table (R240) -/

/-- The checks of the instructions are the conditions of the fault table, which names SP by its value (R26). -/
theorem guardOf_eq_faultOf (i : Instr) (s : State) : guardOf i s = faultOf i s := by
  cases i
  case call => simp only [guardOf, checkPush, faultOf, Fin.ext_iff]; rfl
  case ret => simp only [guardOf, checkPop, faultOf, Fin.ext_iff]; rfl
  all_goals rfl

/-- HALT after an instruction: the fault its check names, else as before (R240, R246). -/
theorem exec_halt {i : Instr} {s t : State} (h : exec i s = .next t) : t.halt = (guardOf i s).or s.halt := by
  obtain ⟨k, hg, rfl⟩ | ⟨hg, rfl⟩ := exec_cases h
  · rw [hg]; rfl
  · rw [hg, effectOf_halt]; rfl

/-! ## The tick (R250) -/

theorem toNat_countDown (b : Byte) : (countDown b).toNat = b.toNat - 1 := by
  unfold countDown
  split
  · subst b; rfl
  · bv_omega

section Ports

variable {s : State}

theorem State.tick_of_running (h : s.halt = none) : s.tick = (s.setDT (countDown s.dt)).setST (countDown s.st) := by
  simp only [State.tick, h]

theorem State.tick_of_halted {k : FaultKind} (h : s.halt = some k) : s.tick = s := by
  simp only [State.tick, h]

/-! ## Key events (R252, R253) -/

theorem State.keyEvent_of_halted {e : FaultKind} (h : s.halt = some e) (k : Nat) (f : Key → State) :
    s.keyEvent k f = s := by
  simp only [State.keyEvent, h]

theorem State.keyEvent_of_badIndex (h : s.halt = none) {k : Nat} (hk : 15 < k) (f : Key → State) :
    s.keyEvent k f = s.raiseFault .hostKeyIndex := by
  simp only [State.keyEvent, h, dif_neg (Nat.not_lt.2 hk)]

theorem State.capture_of_idle (hw : s.waiting = false) (k : Key) : s.capture k = s := by
  simp [State.capture, hw]

/-- A later release while LDK is armed: the key held stays or the new one is taken (decision D19). -/
theorem State.released_capture_of_held {held : Key} (hw : s.waiting = true) (hr : s.released = some held) (k : Key) :
    (s.capture k).released = some held ∨ (s.capture k).released = some k := by
  simp only [State.capture, hw, hr, if_true, State.nextDraw_released, State.setWait_released]
  cases Config.freeBit s.draws
  · exact .inr rfl
  · exact .inl rfl

end Ports

theorem State.key_capture (s : State) (k : Key) : (s.capture k).key = s.key := by
  obtain ⟨w, r, d, h⟩ := s.capture_frame k
  rw [h]

/-- Recording a release keeps WAITING as it was: only RELEASED and the draw counter can change. -/
theorem State.capture_eq (s : State) (k : Key) :
    s.capture k = { s with released := (s.capture k).released, draws := (s.capture k).draws } := by
  have hw : (s.capture k).waiting = s.waiting := (s.sameProgramState_capture k).waiting
  obtain ⟨w, r, d, h⟩ := s.capture_frame k
  rw [h] at hw ⊢
  subst hw
  rfl

end Sys2Proof.Machine

namespace Sys2Proof.Proofs

open Sys2Proof.Machine

/-- Settles O10: HALT after an instruction of a running core is what its check names, and the checks are the table. -/
theorem faultsAreThoseOfTheTable : Obligations.FaultsAreThoseOfTheTable := by
  intro i s hrun
  obtain ⟨t, ht⟩ := exists_exec i s
  exact ⟨t, ht, by rw [exec_halt ht, hrun, guardOf_eq_faultOf, Option.or_none]⟩

/-- Settles O11: of the three things a step can do only the two faults leave HALT written, and each writes nothing else
but the advanced pc of the instruction's. -/
theorem faultsArePrecise : Obligations.FaultsArePrecise := by
  intro s t k hstep hk
  obtain ⟨hrun, ⟨hf, rfl⟩ | ⟨hf, k', -, rfl⟩ | ⟨-, -, rfl⟩⟩ := step_cases hstep
  · have hout : ¬ s.pc.toNat + 1 ≤ 0xFFF := mt s.canFetch_iff.2 (by simp [hf])
    rw [if_neg hout, ← hk]; rfl
  · rw [if_pos (s.canFetch_iff.1 hf), ← hk]; rfl
  · rw [effectOf_halt] at hk
    exact absurd (hk.symm.trans hrun) (Option.some_ne_none k)

/-- Settles O52: a running core's tick writes both timers and no other part; each count is one down to 0. -/
theorem tickCountsBothTimersDown : Obligations.TickCountsBothTimersDown := by
  refine ⟨fun s hrun => ?_, fun _ _ => State.tick_of_halted⟩
  rw [State.tick_of_running hrun]
  exact ⟨toNat_countDown s.dt, toNat_countDown s.st, rfl⟩

/-- Settles O53: a key event by its three forms (bad index, halted core, the event), and a release by the wait's. -/
theorem keyEventsUpdateTheKeypad : Obligations.KeyEventsUpdateTheKeypad := by
  intro s k
  refine ⟨fun hrun hk => ⟨State.keyEvent_of_badIndex hrun hk _, State.keyEvent_of_badIndex hrun hk _⟩,
    fun _ hhalt => ⟨State.keyEvent_of_halted hhalt k _, State.keyEvent_of_halted hhalt k _⟩, fun hrun hk => ?_⟩
  have hpressed : s.keyPressed k = s.setKey ⟨k, hk⟩ true := State.keyEvent_of_running hrun hk _
  have hreleased : s.keyReleased k = (s.setKey ⟨k, hk⟩ false).capture ⟨k, hk⟩ := State.keyEvent_of_running hrun hk _
  rw [hpressed, hreleased]
  refine ⟨s.keyDown_setKey _ _, rfl, fun j => ?_, ?_, fun hw => ?_, fun hw hr => ?_, fun held hw hr => ?_⟩
  · rw [State.keyDown_capture, s.keyDown_setKey]
  · simp only [State.key_capture]
    exact (s.setKey ⟨k, hk⟩ false).capture_eq _
  · rw [State.capture_of_idle (s := s.setKey ⟨k, hk⟩ false) hw]; rfl
  · rw [State.capture_of_armed (s := s.setKey ⟨k, hk⟩ false) hw hr]; rfl
  · exact State.released_capture_of_held (s := s.setKey ⟨k, hk⟩ false) hw hr _

end Sys2Proof.Proofs
end

section
/-! The hazards of a run and the limits of a launch (70_reset_and_hazards.md R271 to R278): a jump to itself and an
armed LDK that no release reaches are states the step leaves as they are; the size at which `load` refuses a ROM. -/

namespace Sys2Proof.Machine

/-! ## Steps that lead back to the state they start from (R275, R278) -/

section FixedPoints

variable {s : State}

/-- Setting pc back to where the instruction was fetched undoes the advance. -/
theorem State.advancePc_setPc {w : Word} (h : w = s.pc) : s.advancePc.setPc w = s := by subst h; rfl

/-- The effect of a jump to the address it was fetched from. -/
theorem effectOf_jmp_self {nnn : Addr12} (h : nnn.toNat = s.pc.toNat) : effectOf (.jmp nnn) s.advancePc = s :=
  State.advancePc_setPc (BitVec.eq_of_toNat_eq ((toNat_addrOperand nnn).trans h))

/-- The effect of an armed LDK that holds no key. -/
theorem effectOf_ldk_unreleased (x : Reg) (hw : s.waiting = true) (hr : s.released = none) :
    effectOf (.ldk x) s.advancePc = s :=
  (effectOf_ldk_armed (s := s.advancePc) x hw hr).trans (State.advancePc_setPc (BitVec.add_sub_cancel s.pc 2))

/-- The step of an armed LDK that holds no key changes nothing at all. -/
theorem State.stepped_of_unreleased (ha : s.armedAtLdk) (hw : s.waiting = true) (hr : s.released = none) :
    s.stepped = s := by
  obtain ⟨hf, x, hldk⟩ := ha hw
  obtain h | h := s.stepped_cases
  · exact h
  · have hrun : s.halt = none := (step_cases h).1
    rw [step_of_canFetch hrun hf, hldk, exec_of_guard rfl, effectOf_ldk_unreleased x hw hr] at h
    exact next_inj h

end FixedPoints

/-! ## Runs without a release (R275) -/

/-- RELEASED is written by a step or a release only (60_exceptions.md R253). -/
theorem HostOp.apply_released {op : HostOp} (hs : op ≠ .step) (hr : ∀ k, op ≠ .keyReleased k) (s : State) :
    (op.apply s).released = s.released := by
  cases op with
  | step => exact absurd rfl hs
  | tick => simp only [HostOp.apply, State.tick]; split <;> rfl
  | clearDirty => rfl
  | keyReleased k => exact absurd rfl (hr k)
  | keyPressed k =>
    obtain h | h | ⟨k', h⟩ := s.keyEvent_cases k (s.setKey · true) <;>
      rw [HostOp.apply, State.keyPressed, h] <;> rfl

/-- `t` still waits where `s` waits: an armed LDK that holds no key, with the program's state of `s`. -/
structure State.StillWaits (s t : State) : Prop where
  program : s.SameProgramState t
  armed : t.armedAtLdk
  waiting : t.waiting = true
  released : t.released = none

namespace State.StillWaits

variable {s t : State}

theorem refl (ha : s.armedAtLdk) (hw : s.waiting = true) (hr : s.released = none) : s.StillWaits s :=
  ⟨.refl s, ha, hw, hr⟩

/-- An armed LDK waits through every host operation but a release: its own step changes nothing, and no other operation
reaches the program's state or RELEASED. -/
theorem apply (h : s.StillWaits t) {op : HostOp} (hno : ∀ k, op ≠ .keyReleased k) : s.StillWaits (op.apply t) := by
  by_cases hop : op = .step
  · subst hop
    rw [HostOp.apply, State.stepped_of_unreleased h.armed h.waiting h.released]
    exact h
  · have hsame := HostOp.apply_sameProgramState hop t
    exact ⟨h.program.trans hsame, State.armedAtLdk_congr hsame.mem hsame.pc hsame.waiting h.armed,
      hsame.waiting.trans h.waiting, (HostOp.apply_released hop hno t).trans h.released⟩

theorem runOps {ops : List HostOp} (h : s.StillWaits t) (hno : ∀ k, HostOp.keyReleased k ∉ ops) :
    s.StillWaits (t.runOps ops) := by
  induction ops generalizing t with
  | nil => exact h
  | cons op ops ih =>
    exact ih (h.apply fun k hk => hno k (hk ▸ List.mem_cons_self)) fun k hk => hno k (List.mem_cons_of_mem op hk)

end State.StillWaits

/-! ## What `load` answers, by the size of the ROM (R271) -/

section Load

variable {rom : List Byte}

theorem load_of_large (h : 4096 ≤ 0x200 + rom.length) (q : Quirks) (p : LaunchParams) :
    load rom q p = .error .romTooLarge := if_pos h

theorem load_of_fits (h : 0x200 + rom.length < 4096) (q : Quirks) (p : LaunchParams) :
    load rom q p = .ok (loadedState rom q p) := if_neg (Nat.not_le_of_lt h)

end Load

end Sys2Proof.Machine

namespace Sys2Proof.Proofs

open Sys2Proof.Machine

/-- Settles O25: the loaded memory is canonical, pc is 0x200, and there is no return address and no wait. -/
theorem loadsMeetTheInvariant : Obligations.LoadsMeetTheInvariant := fun _ _ _ _ => load_inv

/-- Settles O42: the jump's effect only undoes the advance of pc. -/
theorem selfJumpIsAFixedPoint : Obligations.SelfJumpIsAFixedPoint := by
  intro s nnn hrun hf hjmp hself
  rw [step_of_canFetch hrun hf, hjmp, exec_of_guard rfl, effectOf_jmp_self hself]

/-- Settles O45: the invariant gives the LDK that the wait is armed at, and every operation of the run keeps it
waiting. -/
theorem unreleasedLdkWaitsForEver : Obligations.UnreleasedLdkWaitsForEver := by
  intro ops s hinv hw hr hno
  obtain ⟨hsame, -, hwaiting, hreleased⟩ := (State.StillWaits.refl hinv.armed hw hr).runOps hno
  refine ⟨hwaiting, hreleased, hsame.pc, fun j => ?_, hsame.i, fun a => ?_, hsame.sp, fun j => ?_⟩
  · rw [State.reg, hsame.v]; rfl
  · rw [State.readByte, hsame.mem]; rfl
  · rw [State.stackEntry, hsame.stack]; rfl

/-- Settles O55: 0x200 and the ROM's length together reach the end of memory exactly past 3583 bytes. -/
theorem loadRefusesExactlyLargeRoms : Obligations.LoadRefusesExactlyLargeRoms := fun _ q p =>
  ⟨fun hlarge => load_of_large (by omega) q p, fun hfits => ⟨_, load_of_fits (by omega) q p⟩⟩

end Sys2Proof.Proofs
end
